-- ==== Sys2Proof/Word.lean ====
section
/-! DEFINITION. The word types of the Mitutoyo channel decoder block (MCD): every width is one that
`10_state.md` rule R20 or `30_encoding.md` rule R80 names. What has a width or a range that a
configuration sets (a tick count of `TICK_W` bits, a channel index below `NCH`) is a `Nat`. -/

namespace Sys2Proof

/-- A nibble, "a 4-bit value" (rule R7). -/
abbrev Nibble := BitVec 4

/-- One 16-bit Register Table element (format T16, rules R80 and R92). -/
abbrev Word16 := BitVec 16

/-- A stored value, the V format: a binary32 pattern (rules R80 and R90). -/
abbrev Pattern := BitVec 32

end Sys2Proof
end

