-- ==== Sys2Proof/Config.lean ====
section
/-! DEFINITION. The implementation parameters of rule R5, the validity of a configuration (rule R6),
and the free values of the machine that need no state type. -/

namespace Sys2Proof

/-- `WORD_ORDER` (rules R5 and R91; decision D13). -/
inductive WordOrder
  /-- `MSW_FIRST`: the register `base` holds bits 31:16. -/
  | mswFirst
  /-- `LSW_FIRST`: the register `base` holds bits 15:0. -/
  | lswFirst
  deriving DecidableEq, Repr

/-- `SEQ_MODE` (rules R5, R202 and R232; decision D18). -/
inductive SeqMode
  /-- `SERIAL`: one poll at a time, the host only in its slot. -/
  | serial
  /-- `CONCURRENT`: the channels are polled in parallel, the host at any time. -/
  | concurrent
  deriving DecidableEq, Repr

/-- The configuration record: every parameter of rule R5 (rule R29). No operation of the block changes
it. The widths of an element (16 bits), a phase code, `ni[c]` and the like are no parameters. -/
structure Config where
  /-- `NCH`, the number of sensor channels. -/
  nch : Nat
  /-- `N`, the number of elements of each table space. -/
  n : Nat
  /-- `ORIGIN_COIL[c]`, channel 0 first. -/
  originCoil : List Nat
  /-- `IREG_BASE[c]`, channel 0 first. -/
  iregBase : List Nat
  /-- `NNIB`, the number of nibbles in a sensor frame. -/
  nnib : Nat
  /-- `BIT_TIMEOUT_TICKS`. -/
  bitTimeoutTicks : Nat
  /-- `ORIGIN_TIMEOUT_TICKS`. -/
  originTimeoutTicks : Nat
  /-- `TICK_W`, the width of the Tick Clock in bits. -/
  tickW : Nat
  /-- `TICK_PERIOD` in milliseconds: "Timing only; no rule depends on it" (rule R5). -/
  tickPeriodMs : Nat
  /-- `WORD_ORDER`. -/
  wordOrder : WordOrder
  /-- `SEQ_MODE`. -/
  seqMode : SeqMode
  /-- `ADDR_W`, the width of the host command's address field in bits. -/
  addrW : Nat
  /-- `COUNT_W`, the width of the host command's count field in bits. -/
  countW : Nat
  /-- `SYNC_STAGES`: not modelled in the interleaving model (rules R33 and R35). -/
  syncStages : Nat
  /-- `F_SYS`, the frequency of `clk_sys` in Hz, where a build states one; no rule depends on it (rule
  R306, U20). -/
  fSys : Option Nat
  /-- `NEG_ZERO`. -/
  negZero : Bool
  deriving DecidableEq, Repr

/-- The reference configuration of rule R5; `F_SYS` is "OPEN" there. -/
def Config.reference : Config where
  nch := 2
  n := 8
  originCoil := [0, 1]
  iregBase := [0, 2]
  nnib := 13
  bitTimeoutTicks := 40
  originTimeoutTicks := 10000
  tickW := 64
  tickPeriodMs := 1
  wordOrder := .mswFirst
  seqMode := .serial
  addrW := 16
  countW := 16
  syncStages := 2
  fSys := none
  negZero := true

/-- `ORIGIN_COIL[c]`: the coil index that controls channel `c`'s origin-set. A channel that the record
gives no index has one outside the table, so that the record is not valid (log entry 20). -/
def Config.coil (k : Config) (c : Nat) : Nat := k.originCoil[c]?.getD k.n

/-- `IREG_BASE[c]`: the first of channel `c`'s two input-register indices; as for `Config.coil` where the
record gives none. -/
def Config.base (k : Config) (c : Nat) : Nat := k.iregBase[c]?.getD k.n

/-- Channel `c` alone breaks no bound of rule R6: its coil index and its register pair are in the table. -/
def Config.chanInRange (k : Config) (c : Nat) : Bool :=
  decide (k.coil c < k.n) && decide (k.base c + 1 < k.n)

/-- Two channels share neither a coil index nor an input-register index (rule R6). The pairs
`b, b+1` and `b', b'+1` are disjoint exactly when one ends before the other begins. -/
def Config.chansDisjoint (k : Config) (c d : Nat) : Bool :=
  decide (k.coil c ≠ k.coil d) &&
    (decide (k.base c + 1 < k.base d) || decide (k.base d + 1 < k.base c))

/-- Rule R6: a configuration is valid. -/
def Config.valid (k : Config) : Bool :=
  (List.range k.nch).all fun c =>
    k.chanInRange c && (List.range k.nch).all fun d => decide (c = d) || k.chansDisjoint c d

/-- FREE VALUE (log entry 5). What `h_rdata[j]` holds where rule R193 says "not specified" (U11:
any value). The first argument is the state's counter of free values, the second is `j`. -/
opaque Config.freeRdata : Nat → Nat → Word16

/-- FREE VALUE (log entry 12). What a read of entry `k` of the frame buffer gives where a configuration's
`NNIB` leaves no such entry; with 13 nibbles (rule R81) every entry that a rule reads is there. -/
opaque Config.freeNibble : Nat → Nibble

end Sys2Proof
end

