-- ==== Sys2Proof/Syntax.lean ====
section
/-! DEFINITION. The operations of the block (one constructor of `Instr` for each row of
`spec/opcode_table.json`), the codes they are selected by (rule R80), and the event-script notation
of rules R107 and R108. -/

namespace Sys2Proof

/-- The operations of the block (rule R106), in the order of the opcode table. A channel operation
names its channel `c` (rule R7; it exists when `c < NCH`); a host command carries the fields `addr` and
`count` of its H word (unsigned numbers of `ADDR_W` and `COUNT_W` bits). -/
inductive Instr
  /-- `CH.POLL`, rule R121. -/
  | chPoll (c : Nat)
  /-- `CH.RDCOIL`, rule R122. -/
  | chRdcoil (c : Nat)
  /-- `CH.ORIGIN`, rule R123. -/
  | chOrigin (c : Nat)
  /-- `ORG.START`, outcome of `CH.ORIGIN`, rule R124. -/
  | orgStart (c : Nat)
  /-- `ORG.EXPIRE`, outcome of `CH.ORIGIN`, rule R125. -/
  | orgExpire (c : Nat)
  /-- `ORG.WAIT`, outcome of `CH.ORIGIN`, rule R126. -/
  | orgWait (c : Nat)
  /-- `CH.CLRCOIL`, rule R127. -/
  | chClrcoil (c : Nat)
  /-- `CH.MSTART`, rule R141. -/
  | chMstart (c : Nat)
  /-- `CH.WLOW`, rule R142. -/
  | chWlow (c : Nat)
  /-- `WLOW.PASS`, outcome of `CH.WLOW`, rule R143. -/
  | wlowPass (c : Nat)
  /-- `WLOW.TIMEOUT`, outcome of `CH.WLOW`, rule R144. -/
  | wlowTimeout (c : Nat)
  /-- `WLOW.STAY`, outcome of `CH.WLOW`, rule R145. -/
  | wlowStay (c : Nat)
  /-- `CH.WHIGH`, rule R146. -/
  | chWhigh (c : Nat)
  /-- `WHIGH.SAMPLE`, outcome of `CH.WHIGH`, rule R146. -/
  | whighSample (c : Nat)
  /-- `WHIGH.TIMEOUT`, outcome of `CH.WHIGH`, rule R147. -/
  | whighTimeout (c : Nat)
  /-- `WHIGH.STAY`, outcome of `CH.WHIGH`, rule R148. -/
  | whighStay (c : Nat)
  /-- `CH.DECODE`, rule R170. -/
  | chDecode (c : Nat)
  /-- `DEC.INVALID`, outcome of `CH.DECODE`, rule R171. -/
  | decInvalid (c : Nat)
  /-- `DEC.OK`, outcome of `CH.DECODE`, rule R178. -/
  | decOk (c : Nat)
  /-- `CH.WRITE`, rule R180. -/
  | chWrite (c : Nat)
  /-- `H.RDC`, rule R194. -/
  | hRdc (addr count : Nat)
  /-- `H.RDD`, rule R195. -/
  | hRdd (addr count : Nat)
  /-- `H.RDH`, rule R196. -/
  | hRdh (addr count : Nat)
  /-- `H.RDI`, rule R197. -/
  | hRdi (addr count : Nat)
  /-- `H.WRC`, rule R198. -/
  | hWrc (addr count : Nat)
  /-- `H.ILL5`, the illegal code `0b101`, rule R200. -/
  | hIll5 (addr count : Nat)
  /-- `H.WRH`, rule R199. -/
  | hWrh (addr count : Nat)
  /-- `H.ILL7`, the illegal code `0b111`, rule R200. -/
  | hIll7 (addr count : Nat)
  /-- `TMR.EVT`, rule R220. -/
  | tmrEvt
  /-- `TICK.INC`, rule R217. -/
  | tickInc
  /-- `ADP.EVT`, rule R221. -/
  | adpEvt
  /-- `ADP.SET`, rule R222. -/
  | adpSet
  /-- `SEQ.SNAP`, rule R227. -/
  | seqSnap
  /-- `SEQ.ADPCLR`, rule R228. -/
  | seqAdpclr
  /-- `SEQ.NETADV`, rule R229. -/
  | seqNetadv
  /-- `SEQ.CH`, rule R230. -/
  | seqCh
  /-- `SEQ.HOST`, rule R231. -/
  | seqHost
  /-- `FRAME`: the F format (rule R81) sent by the sensor of channel `c` (rule R108). `start` is the
  field `START`, nibbles 0 to 3, of any value (rule R84); then `SIGN`, `DIG0` to `DIG5`, `DP`, `RSV`. -/
  | frame (c : Nat) (start : BitVec 16) (sign d0 d1 d2 d3 d4 d5 dp rsv : Nibble)
  /-- `VALUE`: the V format (rule R90), fields `s`, `E`, `f`; "not an operation". -/
  | value (sgn : BitVec 1) (expo : BitVec 8) (frac : BitVec 23)
  deriving DecidableEq, Repr

/-- The codes of the block, one constructor for each format of rule R80 that the opcode table gives
a row (S, Q, E, H, F, V). Which format a code has is told by the register or the wire that holds it
(a phase register, the slot register, an event, the host port, a sensor), never by its bits. -/
inductive Code
  /-- S: the phase code of channel `c` (rule R100). -/
  | s (c : Nat) (phase : BitVec 4)
  /-- Q: a slot code (rule R101). -/
  | q (slot : BitVec 3)
  /-- E: an event code (rule R102). -/
  | e (event : BitVec 2)
  /-- H: a host command word, 35 bits (rules R80 and R93); with widths other than 16 a number of
  `3 + ADDR_W + COUNT_W` bits, the model's choice (log entry 24). -/
  | h (word : Nat)
  /-- F: a frame of channel `c`'s sensor, in nibble-value order, nibble 0 leftmost (rule R81). -/
  | f (c : Nat) (word : BitVec 52)
  /-- V: a stored value (rule R90). -/
  | v (pattern : Pattern)
  deriving DecidableEq, Repr

/-- Why a code is no operation. -/
inductive DecodeError
  /-- A phase code `0x9` to `0xF` (rules R24, R100 and R104). -/
  | reservedPhase (code : BitVec 4)
  /-- A slot code `0b101` to `0b111` (rules R101 and R104). -/
  | reservedSlot (code : BitVec 3)
  deriving DecidableEq, Repr

/-- Levels of the host's write data `h_wdata[0], h_wdata[1], ...` (rule R96); a coil's new value is bit 0
of its element (log entry 9). -/
abbrev HostData := List Word16

/-- One step of one agent of rule R9: what the schedule of rule R37 chooses. The script events of
rule R107 that are agents' steps are constructors here. -/
inductive Event
  /-- `STEP c`: one step of `CH[c]`, the rule selected by `phase[c]`. -/
  | chan (c : Nat)
  /-- `SEQ`: one step of the Sequencer, the rule selected by `q`. -/
  | seq
  /-- One step of the interrupt glue: the operation of an event code (rule R102). -/
  | glue (code : BitVec 2)
  /-- One step of `HOST` at its own time, in `CONCURRENT` mode (rules R202 and R232). -/
  | host
  /-- The host presents a command and its write data on the host port (rule R190). -/
  | present (word : Nat) (data : HostData)
  /-- `CLK c v`, `ENV.CLK`: the sensor sets `pin_clk[c]`. -/
  | clk (c : Nat) (v : Bool)
  /-- `DAT c v`, `ENV.DAT`: the sensor sets `pin_dat[c]`. -/
  | dat (c : Nat) (v : Bool)
  /-- The network side drives `net_adv_done` (rule R229). -/
  | netDone (v : Bool)
  /-- `rst` is sampled high at a rising edge of `clk_sys` (rule R290). -/
  | rst
  deriving DecidableEq, Repr, Inhabited

/-- An entry of an event script (rules R107 and R108): a step of an agent, or an event of the test
bench that stands in place of an agent. `TMR`, `ADP`, `TICKS`, `BIT`, `NIB` and `FRAME` with any
nibbles are lists of entries (`Machine/Script.lean`). -/
inductive Item
  /-- A step of an agent. -/
  | ev (e : Event)
  /-- `START c`: set `ps[c]` in place of the Sequencer. -/
  | start (c : Nat)
  /-- `HOST cmd addr count [data]`: one host command, in place of the Sequencer's slot. -/
  | host (word : Nat) (data : HostData)
  /-- `POLL c` (rule R108). -/
  | poll (c : Nat)
  /-- The tail of `POLL c`: `STEP c` until `phase[c]` is `P_IDLE` or `P_WLOW`. -/
  | settle (c : Nat)
  /-- `FRAME c` given as an F word, with any start marker: the table's row `FRAME`. -/
  | frame (c : Nat) (word : BitVec 52)
  /-- A V word offered as an operation: the table's row `VALUE`. -/
  | value (pattern : Pattern)
  deriving DecidableEq, Repr, Inhabited

/-- FREE VALUE (log entry 4). The step that the environment's schedule takes when no script entry is
left: rule R37 makes the schedule, the pins, the events and the host's choices parameters of the
step relation, and U15 and U16 leave each of them any value. -/
opaque Config.schedule : Nat → Event

end Sys2Proof
end

