-- ==== Sys2Proof/WellFormed.lean ====
section
/-! DEFINITION. Which terms of `Instr` a code of the opcode table stands for in a configuration. -/

namespace Sys2Proof

/-- Nibble `k` (0 to 3) of the `START` field, nibble 0 leftmost (rule R81). -/
def startNibble (start : BitVec 16) (k : Nat) : Nibble :=
  start.extractLsb' (4 * (3 - k)) 4

/-- What a term of `Instr` can break in a configuration: a channel index names a channel (rule R7), and
the fields of a host command fit their widths (rules R5 and R93). Every other operand has the range of
its field by its type; a frame's start marker may be any, a bad one being received and found invalid
(rules R84, R104 and R171). -/
def Instr.wf (k : Config) : Instr → Bool
  | .chPoll c | .chRdcoil c | .chOrigin c | .orgStart c | .orgExpire c | .orgWait c
  | .chClrcoil c | .chMstart c | .chWlow c | .wlowPass c | .wlowTimeout c | .wlowStay c
  | .chWhigh c | .whighSample c | .whighTimeout c | .whighStay c | .chDecode c
  | .decInvalid c | .decOk c | .chWrite c | .frame c _ _ _ _ _ _ _ _ _ _ => decide (c < k.nch)
  | .hRdc a n | .hRdd a n | .hRdh a n | .hRdi a n | .hWrc a n | .hIll5 a n | .hWrh a n
  | .hIll7 a n => decide (a < 2 ^ k.addrW) && decide (n < 2 ^ k.countW)
  | .tmrEvt | .tickInc | .adpEvt | .adpSet | .seqSnap | .seqAdpclr | .seqNetadv | .seqCh
  | .seqHost | .value _ _ _ => true

/-- A code that a register or a wire of the configuration can hold: the channel exists, and an H word
fits its format (rule R93; with widths other than 16, log entry 24). -/
def Code.wf (k : Config) : Code → Bool
  | .s c _ | .f c _ => decide (c < k.nch)
  | .h word => decide (word < 2 ^ (3 + k.addrW + k.countW))
  | .q _ | .e _ | .v _ => true

/-- The operation that a code selects and of which the instruction is an outcome (rule R106: "an
outcome of a step has its own row with the code of its step and the condition that selects it").
Every other instruction is its own operation. -/
def Instr.operation : Instr → Instr
  | .orgStart c | .orgExpire c | .orgWait c => .chOrigin c
  | .wlowPass c | .wlowTimeout c | .wlowStay c => .chWlow c
  | .whighSample c | .whighTimeout c | .whighStay c => .chWhigh c
  | .decInvalid c | .decOk c => .chDecode c
  | .chPoll c => .chPoll c | .chRdcoil c => .chRdcoil c | .chOrigin c => .chOrigin c
  | .chClrcoil c => .chClrcoil c | .chMstart c => .chMstart c | .chWlow c => .chWlow c
  | .chWhigh c => .chWhigh c | .chDecode c => .chDecode c | .chWrite c => .chWrite c
  | .hRdc a n => .hRdc a n | .hRdd a n => .hRdd a n | .hRdh a n => .hRdh a n
  | .hRdi a n => .hRdi a n | .hWrc a n => .hWrc a n | .hIll5 a n => .hIll5 a n
  | .hWrh a n => .hWrh a n | .hIll7 a n => .hIll7 a n
  | .tmrEvt => .tmrEvt | .tickInc => .tickInc | .adpEvt => .adpEvt | .adpSet => .adpSet
  | .seqSnap => .seqSnap | .seqAdpclr => .seqAdpclr | .seqNetadv => .seqNetadv
  | .seqCh => .seqCh | .seqHost => .seqHost
  | .frame c start sign d0 d1 d2 d3 d4 d5 dp rsv =>
    .frame c start sign d0 d1 d2 d3 d4 d5 dp rsv
  | .value a b d => .value a b d

end Sys2Proof
end

