-- ==== Sys2Proof/Decode.lean ====
section
/-! DEFINITION. The decoder of every format (rules R80 to R102), total and rejecting by name, and the
encoder written from the same tables. -/

namespace Sys2Proof

/-- S format (rule R100): the phase code selects the channel's next step. -/
def decodeS (c : Nat) (phase : BitVec 4) : Except DecodeError Instr :=
  match phase.toNat with
  | 0 => .ok (.chPoll c)
  | 1 => .ok (.chRdcoil c)
  | 2 => .ok (.chOrigin c)
  | 3 => .ok (.chClrcoil c)
  | 4 => .ok (.chMstart c)
  | 5 => .ok (.chWlow c)
  | 6 => .ok (.chWhigh c)
  | 7 => .ok (.chDecode c)
  | 8 => .ok (.chWrite c)
  | _ => .error (.reservedPhase phase)

/-- Q format (rule R101): the slot code selects the Sequencer's next step. -/
def decodeQ (slot : BitVec 3) : Except DecodeError Instr :=
  match slot.toNat with
  | 0 => .ok .seqSnap
  | 1 => .ok .seqAdpclr
  | 2 => .ok .seqNetadv
  | 3 => .ok .seqCh
  | 4 => .ok .seqHost
  | _ => .error (.reservedSlot slot)

/-- E format (rule R102): every code is an operation of the interrupt glue. -/
def decodeE (event : BitVec 2) : Except DecodeError Instr :=
  match event.toNat with
  | 0 => .ok .tmrEvt
  | 1 => .ok .tickInc
  | 2 => .ok .adpEvt
  | _ => .ok .adpSet

/-! Rule R93 gives the layout of an H word for `ADDR_W` and `COUNT_W` of 16. With other widths the spec gives
none: that the fields then stand in the same order, `cmd` above `addr` above `count` with no gap, is the
model's choice (DESIGN CHOICE, log entry 24). -/

/-- `cmd = {we, sp}`: bits 34:32 of an H word (rule R93); with other widths the three bits above `addr`
(log entry 24). -/
def hCmdOf (k : Config) (word : Nat) : BitVec 3 := BitVec.ofNat 3 (word / 2 ^ (k.addrW + k.countW))

/-- `addr`: bits 31:16 of an H word (rule R93); with other widths the `ADDR_W` bits above `count` (log
entry 24). -/
def hAddrOf (k : Config) (word : Nat) : Nat := word / 2 ^ k.countW % 2 ^ k.addrW

/-- `count`: bits 15:0 of an H word (rule R93); with other widths its lowest `COUNT_W` bits (log
entry 24). -/
def hCountOf (k : Config) (word : Nat) : Nat := word % 2 ^ k.countW

/-- The H word of its three fields: rule R93's layout with widths of 16, and with other widths the same
order of the fields, which is the model's choice (log entry 24). -/
def hostWord (k : Config) (cmd : BitVec 3) (addr count : Nat) : Nat :=
  cmd.toNat * 2 ^ (k.addrW + k.countW) + addr * 2 ^ k.countW + count

/-- The host command map (rule R94). -/
def hostInstr (cmd : BitVec 3) (addr count : Nat) : Instr :=
  match cmd.toNat with
  | 0 => .hRdc addr count
  | 1 => .hRdd addr count
  | 2 => .hRdh addr count
  | 3 => .hRdi addr count
  | 4 => .hWrc addr count
  | 5 => .hIll5 addr count
  | 6 => .hWrh addr count
  | _ => .hIll7 addr count

/-- H format (rules R93 and R94). -/
def decodeH (k : Config) (word : Nat) : Except DecodeError Instr :=
  .ok (hostInstr (hCmdOf k word) (hAddrOf k word) (hCountOf k word))

/-- Nibble `k` (0 to 12) of an F word, nibble 0 leftmost (rule R81). -/
def frameNibble (word : BitVec 52) (k : Nat) : Nibble := word.extractLsb' (4 * (12 - k)) 4

/-- F format (rule R81): every frame has an operation, a frame with a bad start marker too, which the
channel receives to its end and then finds invalid (rules R84, R104 and R149). -/
def decodeF (c : Nat) (word : BitVec 52) : Except DecodeError Instr :=
  .ok (.frame c (word.extractLsb' 36 16) (frameNibble word 4) (frameNibble word 5)
    (frameNibble word 6) (frameNibble word 7) (frameNibble word 8) (frameNibble word 9)
    (frameNibble word 10) (frameNibble word 11) (frameNibble word 12))

/-- V format (rule R90): sign bit 31, exponent bits 30:23, fraction bits 22:0. -/
def decodeV (pattern : Pattern) : Except DecodeError Instr :=
  .ok (.value (pattern.extractLsb' 31 1) (pattern.extractLsb' 23 8) (pattern.extractLsb' 0 23))

/-- The decoder: total on every code of every format, rejecting by name. The widths of an H word's fields
are the configuration's. -/
def decode (k : Config) : Code → Except DecodeError Instr
  | .s c phase => decodeS c phase
  | .q slot => decodeQ slot
  | .e event => decodeE event
  | .h word => decodeH k word
  | .f c word => decodeF c word
  | .v pattern => decodeV pattern

/-- The encoder: the code of an instruction, from the tables of rules R81, R90, R93, R94 and R100 to
R102. An outcome has "the code of its step" (rule R106). -/
def encode (k : Config) : Instr → Code
  | .chPoll c => .s c 0x0
  | .chRdcoil c => .s c 0x1
  | .chOrigin c => .s c 0x2
  | .orgStart c => .s c 0x2
  | .orgExpire c => .s c 0x2
  | .orgWait c => .s c 0x2
  | .chClrcoil c => .s c 0x3
  | .chMstart c => .s c 0x4
  | .chWlow c => .s c 0x5
  | .wlowPass c => .s c 0x5
  | .wlowTimeout c => .s c 0x5
  | .wlowStay c => .s c 0x5
  | .chWhigh c => .s c 0x6
  | .whighSample c => .s c 0x6
  | .whighTimeout c => .s c 0x6
  | .whighStay c => .s c 0x6
  | .chDecode c => .s c 0x7
  | .decInvalid c => .s c 0x7
  | .decOk c => .s c 0x7
  | .chWrite c => .s c 0x8
  | .hRdc addr count => .h (hostWord k 0b000 addr count)
  | .hRdd addr count => .h (hostWord k 0b001 addr count)
  | .hRdh addr count => .h (hostWord k 0b010 addr count)
  | .hRdi addr count => .h (hostWord k 0b011 addr count)
  | .hWrc addr count => .h (hostWord k 0b100 addr count)
  | .hIll5 addr count => .h (hostWord k 0b101 addr count)
  | .hWrh addr count => .h (hostWord k 0b110 addr count)
  | .hIll7 addr count => .h (hostWord k 0b111 addr count)
  | .tmrEvt => .e 0b00
  | .tickInc => .e 0b01
  | .adpEvt => .e 0b10
  | .adpSet => .e 0b11
  | .seqSnap => .q 0b000
  | .seqAdpclr => .q 0b001
  | .seqNetadv => .q 0b010
  | .seqCh => .q 0b011
  | .seqHost => .q 0b100
  | .frame c start sign d0 d1 d2 d3 d4 d5 dp rsv =>
    .f c (start ++ sign ++ d0 ++ d1 ++ d2 ++ d3 ++ d4 ++ d5 ++ dp ++ rsv)
  | .value sgn expo frac => .v (sgn ++ expo ++ frac)

/-- The code of a table word: the format is told by the width. The formats S (4 bits), Q (3) and E
(2) fill the same one byte, so an 8-bit word is read as S; their own widths are read as such
(log entry 13). A word that does not fit its format is none. -/
def tableCode (nbits w : Nat) : Option Code :=
  if nbits = 8 ∨ nbits = 4 then
    if w < 2 ^ 4 then some (.s 0 (BitVec.ofNat 4 w)) else none
  else if nbits = 3 then if w < 2 ^ 3 then some (.q (BitVec.ofNat 3 w)) else none
  else if nbits = 2 then if w < 2 ^ 2 then some (.e (BitVec.ofNat 2 w)) else none
  else if nbits = 40 ∨ nbits = 35 then
    if w < 2 ^ 35 then some (.h w) else none
  else if nbits = 56 ∨ nbits = 52 then
    if w < 2 ^ 52 then some (.f 0 (BitVec.ofNat 52 w)) else none
  else if nbits = 32 then
    if w < 2 ^ 32 then some (.v (BitVec.ofNat 32 w)) else none
  else none

/-- The instruction the decoder reads from a table word in the reference configuration, whose widths are
those of the opcode table (channel 0 where the format has a channel). -/
def decodeTableWord (nbits w : Nat) : Option Instr :=
  match tableCode nbits w with
  | some k =>
    match decode Config.reference k with
    | .ok i => some i
    | .error _ => none
  | none => none

end Sys2Proof
end

