-- ==== Sys2Proof/Machine/State.lean ====
section
/-! DEFINITION. The state of the block as plain data (rules R20 to R36), its reset value (rule R39),
and why a step can stop. -/

namespace Sys2Proof.Machine

/-- The Register Table: four spaces of `N` elements, element 0 first (rules R31, R50 and R92). The element
is the unit of addressing and there are no bytes (log entry 2). -/
structure Table where
  /-- `coils[i]`, 1 bit each. -/
  coils : List Bool
  /-- `discrete_inputs[i]`, 1 bit each. -/
  discrete : List Bool
  /-- `holding_registers[i]`, 16 bits each. -/
  holding : List Word16
  /-- `input_registers[i]`, 16 bits each. -/
  inputs : List Word16
  deriving DecidableEq, Repr

/-- The registers of one channel (rules R20 to R26 and R34). -/
structure Channel where
  /-- `so[c]`, the source's `setting_origin`. -/
  so : Bool
  /-- `oss[c]`, the source's `origin_set_start`, a tick of `TICK_W` bits. -/
  oss : Nat
  /-- `req[c]`, the request output. -/
  req : Bool
  /-- `org[c]`, the origin output. -/
  org : Bool
  /-- `phase[c]`, a code of rule R100. -/
  phase : BitVec 4
  /-- `ni[c]`, the index of the nibble being received. -/
  ni : BitVec 4
  /-- `bi[c]`, the index of the bit being received. -/
  bi : BitVec 2
  /-- `rq[c]`, the origin coil as read at the start of this poll. -/
  rq : Bool
  /-- `acc[c]`, the nibble being accumulated. -/
  acc : Nibble
  /-- `t0[c]`, the tick at which the current half-wait began, `TICK_W` bits. -/
  t0 : Nat
  /-- `val[c]`, the pattern of the last decoded frame. -/
  val : Pattern
  /-- `nib[c][0..12]`, the frame buffer, `NNIB` entries, entry 0 first (rule R23). -/
  nib : List Nibble
  /-- `res[c]`, a result code of rule R242. -/
  res : BitVec 2
  /-- `ps[c]`, the request flag `poll_start[c]` (rule R25). -/
  ps : Bool
  deriving DecidableEq, Repr

/-- The state: every element of rule R20; the ports of rule R32 that the environment drives; the
configuration record, which no step changes; and the two inputs of the step relation that rule R37
keeps apart from the block's state (the script, and the counter of free values). A list has as many
entries, and a count as many bits, as the configuration says: `State.shaped` (Safety.lean). -/
structure State where
  /-- The configuration record of rule R29 (log entry 1: carried here, never written). -/
  cfg : Config
  /-- `tick`, the Tick Clock, a count of `TICK_W` bits (rule R27). -/
  tick : Nat
  /-- The Register Table (rule R31). -/
  table : Table
  /-- `adapter_pending` (rule R28). -/
  adapterPending : Bool
  /-- `tmr_irq_pend` (rule R36). -/
  tmrIrqPend : Bool
  /-- `adp_irq_pend` (rule R36). -/
  adpIrqPend : Bool
  /-- The channels' registers, `NCH` of them, channel 0 first. -/
  chans : List Channel
  /-- `q`, a slot code of rule R101. -/
  q : BitVec 3
  /-- `qc`, the channel being polled (rule R25). -/
  qc : Nat
  /-- `qs`: the poll of `qc` has been requested (rule R25). -/
  qs : Bool
  /-- `net_now`, the tick snapshot, `TICK_W` bits (rule R227). -/
  netNow : Nat
  /-- `h_status`, a status code of rule R243. -/
  hStatus : BitVec 2
  /-- `h_rdata[j]`, `N` elements (rule R193). -/
  hRdata : List Word16
  /-- `h_done`, output of the host port (rules R32, R190 and R231). -/
  hDone : Bool
  /-- `h_valid`: a command is presented and not yet answered (rule R190; log entry 8). -/
  hValid : Bool
  /-- `h_cmd[2:0]`, driven by the host. -/
  hCmd : BitVec 3
  /-- `h_addr[15:0]`, `ADDR_W` bits, driven by the host. -/
  hAddr : Nat
  /-- `h_count[15:0]`, `COUNT_W` bits, driven by the host. -/
  hCount : Nat
  /-- `h_wdata[j]`, `N` elements, driven by the host. -/
  hWdata : HostData
  /-- `pin_clk[c]`, driven by the sensor. -/
  pinClk : List Bool
  /-- `pin_dat[c]`, driven by the sensor. -/
  pinDat : List Bool
  /-- `net_adv_done`, driven by the network side (rule R229). -/
  netAdvDone : Bool
  /-- The schedule and inputs placed for the machine (rules R37 and R107), next first: the model's. -/
  script : List Item
  /-- How many free values have been used: the model's (log entries 4 and 5). -/
  free : Nat
  deriving DecidableEq, Repr

/-- Nothing stops the block with a fault: "All are local-recoverable ... none is fatal" (rule R240).
Each failure of rule R241 is a next state (`takeFailure`), so this type has no constructor. -/
inductive Fault
  deriving DecidableEq, Repr

/-- Why a step is refused. Every refusal is safe: the machine stops where the spec gives no step. -/
inductive Refusal
  /-- An operation without a meaning; raised by an arm of `exec` only, and no arm does. Safe. -/
  | notModelled (mnemonic : String)
  /-- A channel's phase register holds a reserved code: "a model refuses a state holding one" (rule R104,
  U9); raised by `step`, whichever agent would step. Safe. -/
  | reservedPhase (code : BitVec 4)
  /-- The slot register holds a reserved code (rule R104, U9); raised by `step`, whichever agent would
  step. Safe. -/
  | reservedSlot (code : BitVec 3)
  /-- `h_status` holds the reserved code 3 (rule R243, U9: refuse); raised by `step`. Safe. -/
  | reservedStatus
  /-- The configuration breaks rule R6: "a model refuses it"; raised by `step`, and by the channel
  operations whose table index is out of range. Safe. -/
  | invalidConfiguration
  /-- `START c` while channel `c` is busy or already requested (rule R121, D27, U13: refuse); raised
  by `step`. Safe. -/
  | startWhileBusy (c : Nat)
  /-- A word of the V format was offered as an operation: the opcode table calls it "data format of
  the stored value, not an operation" (row `VALUE`, rule R90); raised by its meaning. Safe. -/
  | notAnOperation
  deriving DecidableEq, Repr

/-! The names of rule R100's phase codes. -/

/-- `P_IDLE`. -/
abbrev pIdle : BitVec 4 := 0x0
/-- `P_RDCOIL`. -/
abbrev pRdcoil : BitVec 4 := 0x1
/-- `P_ORIGIN`. -/
abbrev pOrigin : BitVec 4 := 0x2
/-- `P_CLRCOIL`. -/
abbrev pClrcoil : BitVec 4 := 0x3
/-- `P_MSTART`. -/
abbrev pMstart : BitVec 4 := 0x4
/-- `P_WLOW`. -/
abbrev pWlow : BitVec 4 := 0x5
/-- `P_WHIGH`. -/
abbrev pWhigh : BitVec 4 := 0x6
/-- `P_DECODE`. -/
abbrev pDecode : BitVec 4 := 0x7
/-- `P_WRITE`. -/
abbrev pWrite : BitVec 4 := 0x8

/-! The names of rule R101's slot codes. -/

/-- `Q_SNAP`. -/
abbrev qSnap : BitVec 3 := 0b000
/-- `Q_ADPCLR`. -/
abbrev qAdpclr : BitVec 3 := 0b001
/-- `Q_NETADV`. -/
abbrev qNetadv : BitVec 3 := 0b010
/-- `Q_CH`. -/
abbrev qCh : BitVec 3 := 0b011
/-- `Q_HOST`. -/
abbrev qHost : BitVec 3 := 0b100

/-! The result codes of rule R242 and the host status codes of rule R243. -/

/-- `RES_NONE`. -/
abbrev resNone : BitVec 2 := 0b00
/-- `RES_OK`. -/
abbrev resOk : BitVec 2 := 0b01
/-- `RES_TIMEOUT`. -/
abbrev resTimeout : BitVec 2 := 0b10
/-- `RES_INVALID_START`. -/
abbrev resInvalidStart : BitVec 2 := 0b11
/-- `HS_OK`. -/
abbrev hsOk : BitVec 2 := 0b00
/-- `HS_TABLE_ACCESS_FAILURE`. -/
abbrev hsTableAccessFailure : BitVec 2 := 0b01
/-- `HS_UNSUPPORTED`. -/
abbrev hsUnsupported : BitVec 2 := 0b10

/-- The Register Table "created at startup with all-zero/false contents" (rules R31 and R39). -/
def Table.reset (k : Config) : Table where
  coils := List.replicate k.n false
  discrete := List.replicate k.n false
  holding := List.replicate k.n 0
  inputs := List.replicate k.n 0

/-- A channel's registers after reset (rule R39), with a frame buffer of `nnib` entries. -/
def Channel.reset (nnib : Nat) : Channel where
  so := false
  oss := 0
  req := false
  org := false
  phase := pIdle
  ni := 0
  bi := 0
  rq := false
  acc := 0
  t0 := 0
  val := 0
  nib := List.replicate nnib 0
  res := resNone
  ps := false

/-- The machine right after reset (rules R39 and R290) in the configuration `k`. The last eleven fields,
and `cfg`, are no elements the block gives a value in rule R39: their values are log entries 6 and 7. -/
def State.resetIn (k : Config) : State where
  cfg := k
  tick := 0
  table := Table.reset k
  adapterPending := false
  tmrIrqPend := false
  adpIrqPend := false
  chans := List.replicate k.nch (Channel.reset k.nnib)
  q := qSnap
  qc := 0
  qs := false
  netNow := 0
  hStatus := hsOk
  hRdata := List.replicate k.n 0
  hDone := false
  hValid := false
  hCmd := 0
  hAddr := 0
  hCount := 0
  hWdata := List.replicate k.n 0
  pinClk := List.replicate k.nch false
  pinDat := List.replicate k.nch false
  netAdvDone := false
  script := []
  free := 0

/-- The machine right after reset, in the reference configuration (rule R5). -/
def State.reset : State := State.resetIn Config.reference

end Sys2Proof.Machine
end

