-- ==== Sys2Proof/Machine/Ops.lean ====
section
/-! DEFINITION. The named operations over registers and Register Table (rules R8 and R53), the failures
of the block as one shared operation (rules R240 to R249), and the environment's steps. -/

namespace Sys2Proof.Machine

/-! ## Channel registers -/

/-- The registers of channel `c`. An index that names no channel reads as an idle channel that nobody
requests and nothing can change: it has no step (log entry 3). -/
def State.chan (s : State) (c : Nat) : Channel := s.chans[c]?.getD (Channel.reset 0)

/-- The state with channel `c`'s registers updated by `f`; "own channel only" (rule R262). -/
def State.updChan (s : State) (c : Nat) (f : Channel → Channel) : State :=
  { s with chans := s.chans.set c (f (s.chan c)) }

/-- `phase[c] <- p` (rule R8: control transfer). -/
def State.setPhase (s : State) (c : Nat) (p : BitVec 4) : State :=
  s.updChan c fun x => { x with phase := p }

/-! ## The Register Table -/

/-- The four table spaces (rules R31 and R95). -/
inductive Space
  /-- `SP_COIL` = `0b00`. -/
  | coil
  /-- `SP_DISC` = `0b01`. -/
  | disc
  /-- `SP_HOLD` = `0b10`. -/
  | hold
  /-- `SP_IREG` = `0b11`. -/
  | ireg
  deriving DecidableEq, Repr

/-- `zext_16` of a one-bit element (rules R8 and R96). -/
def bitElement (b : Bool) : Word16 := if b then 1 else 0

/-- One element of a space as a 16-bit number (rule R96). There is no element at an index of `N` or
more (rule R50), and every caller checks the index first (rule R54). -/
def Table.read (t : Table) (sp : Space) (i : Nat) : Word16 :=
  match sp with
  | .coil => bitElement (t.coils[i]?.getD false)
  | .disc => bitElement (t.discrete[i]?.getD false)
  | .hold => t.holding[i]?.getD 0
  | .ireg => t.inputs[i]?.getD 0

/-- One element of a space written; a one-bit element takes bit 0 of the value (log entry 9). -/
def Table.write (t : Table) (sp : Space) (i : Nat) (v : Word16) : Table :=
  match sp with
  | .coil => { t with coils := t.coils.set i (v.getLsbD 0) }
  | .disc => { t with discrete := t.discrete.set i (v.getLsbD 0) }
  | .hold => { t with holding := t.holding.set i v }
  | .ireg => { t with inputs := t.inputs.set i v }

/-- `MemRead(space, i, n)` (rule R53): "all n read at one instant". -/
def Table.memRead (t : Table) (sp : Space) (i n : Nat) : List Word16 :=
  (List.range n).map fun j => t.read sp (i + j)

/-- `MemWrite(space, i, n, vs)` with `n` the length of `vs` (rule R53): element `i + j` takes `vs[j]`
and "an element not named by the access keeps its value". -/
def Table.memWrite (t : Table) (sp : Space) (i : Nat) : List Word16 → Table
  | [] => t
  | v :: vs => (t.write sp i v).memWrite sp (i + 1) vs

/-- The bounds of rules R54 and R192, on integers, without wrap. -/
def inBounds (k : Config) (i n : Nat) : Bool := decide (1 ≤ n) && decide (i + n ≤ k.n)

/-- `MemWrite` on the state's table. -/
def State.memWrite (s : State) (sp : Space) (i : Nat) (vs : List Word16) : State :=
  { s with table := s.table.memWrite sp i vs }

/-! ## Failures: the block's exceptions -/

/-- The failures in scope (rule R241). -/
inductive Failure
  /-- `Timeout`, raised by rules R144 and R147. -/
  | timeout (c : Nat)
  /-- `InvalidStart`, raised by rule R171. -/
  | invalidStart (c : Nat)
  /-- `TableAccessFailure`, raised by rule R191. -/
  | tableAccess
  /-- `UnsupportedCommand`, raised by rules R191 and R200. -/
  | unsupported
  deriving DecidableEq, Repr

/-- `h_rdata` takes a new value: element `j` is `f j`. -/
def State.setRdata (s : State) (f : Nat → Word16) : State :=
  { s with hRdata := (List.range s.cfg.n).map f }

/-- `h_rdata` after a failed command: "not specified" (rule R193; U11: any value), so a free value in
every element (log entry 5). -/
def State.loseRdata (s : State) : State :=
  { s.setRdata (Config.freeRdata s.free) with free := s.free + 1 }

/-- Taking a failure (rules R244 to R248): "for a channel failure, `res[c]` and `phase[c] <- P_IDLE`;
for a host failure, `h_status`. Nothing is saved, no mode changes, no vector is taken". The return is
no operation of its own (rule R249): the channel is idle and its next poll starts like any other. -/
def takeFailure (f : Failure) (s : State) : State :=
  match f with
  | .timeout c => s.updChan c fun x => { x with res := resTimeout, phase := pIdle }
  | .invalidStart c => s.updChan c fun x => { x with res := resInvalidStart, phase := pIdle }
  | .tableAccess => { s.loseRdata with hStatus := hsTableAccessFailure }
  | .unsupported => { s.loseRdata with hStatus := hsUnsupported }

/-! ## Interrupt handlers -/

/-- Taking the timer interrupt (rules R217 and R255): the handler is one atomic step and saves nothing.
The count is of `TICK_W` bits (log entry 21). -/
def takeTimerInterrupt (s : State) : State :=
  { s with tick := (s.tick + 1) % 2 ^ s.cfg.tickW, tmrIrqPend := false }

/-- Taking the adapter interrupt (rules R222 and R255). -/
def takeAdapterInterrupt (s : State) : State :=
  { s with adapterPending := true, adpIrqPend := false }

/-! ## The environment (rules R9, R33, R37, R190, R229 and R290) -/

/-- `ENV.CLK`: the sensor of channel `c` drives its clock pin. -/
def State.driveClk (s : State) (c : Nat) (v : Bool) : State :=
  { s with pinClk := s.pinClk.set c v }

/-- `ENV.DAT`: the sensor of channel `c` drives its data pin. -/
def State.driveDat (s : State) (c : Nat) (v : Bool) : State :=
  { s with pinDat := s.pinDat.set c v }

/-- The write data lines when the host drives the levels `data`: `N` elements, where a line that `data`
does not reach keeps its level (rule R96; log entry 9). -/
def State.drivenData (s : State) (data : HostData) : HostData :=
  (List.range s.cfg.n).map fun j => data[j]?.getD (s.hWdata[j]?.getD 0)

/-- The host presents a command: `h_valid = 1` with its fields and data (rule R190), and `h_done`
"stays 0" until it is answered (rule R202). While an earlier command waits, the port is taken and
nothing changes (log entry 8). -/
def State.present (s : State) (word : Nat) (data : HostData) : State :=
  if s.hValid then s
  else
    { s with
      hValid := true
      hCmd := hCmdOf s.cfg word
      hAddr := hAddrOf s.cfg word
      hCount := hCountOf s.cfg word
      hWdata := s.drivenData data
      hDone := false }

/-- The H word on the host port. -/
def State.portWord (s : State) : Nat := hostWord s.cfg s.hCmd s.hAddr s.hCount

/-- `rst` sampled high (rule R290): "every element of rule R20 takes the value of rule R39". What the
environment drives, the configuration and the model's own inputs stay. -/
def State.applyReset (s : State) : State :=
  { State.resetIn s.cfg with
    hValid := s.hValid
    hCmd := s.hCmd
    hAddr := s.hAddr
    hCount := s.hCount
    hWdata := s.hWdata
    pinClk := s.pinClk
    pinDat := s.pinDat
    netAdvDone := s.netAdvDone
    script := s.script
    free := s.free }

end Sys2Proof.Machine
end

