-- ==== Sys2Proof/Machine/Operands.lean ====
section
/-! DEFINITION. The operands of the operations: pins, tick, coil, frame fields, the split of a value,
and the elements a host command names. -/

namespace Sys2Proof.Machine

/-- `PinRead(clk, c)` (rule R33): the current level, the synchroniser's delay not modelled. -/
def pinReadClk (s : State) (c : Nat) : Bool := s.pinClk[c]?.getD false

/-- `PinRead(dat, c)` (rule R33); a level of 1 is a bit of value 1 (rule R7). -/
def pinReadDat (s : State) (c : Nat) : Bool := s.pinDat[c]?.getD false

/-- `TickRead()` (rule R218): the whole tick. -/
def tickRead (s : State) : Nat := s.tick

/-- `a -64 b` (rule R219): "`(a - b) mod 2^64`, unsigned", where 64 is `TICK_W` (log entry 21). -/
def tickDiff (k : Config) (a b : Nat) : Nat := (((a : Int) - b) % ((2 ^ k.tickW : Nat) : Int)).toNat

/-- `MemRead(SP_COIL, ORIGIN_COIL[c], 1)[0]` (rule R122). -/
def originCoilRead (s : State) (c : Nat) : Bool :=
  (s.table.read .coil (s.cfg.coil c)).getLsbD 0

/-- The accumulator after one received bit (rule R83): `(acc >> 1) | (b << 3)` on 4 bits. -/
def accumulate (acc : Nibble) (b : Bool) : Nibble :=
  (acc >>> 1) ||| ((if b then 1#4 else 0#4) <<< 3)

/-- Entry `k` of a frame buffer (rules R8 and R23); a free value where a configuration's `NNIB` leaves no
such entry (log entry 12). -/
def nibAt (nib : List Nibble) (k : Nat) : Nibble := nib[k]?.getD (Config.freeNibble k)

/-- `SIGN` (rules R85 and R172): only `0x8` is negative. -/
def frameNeg (nib : List Nibble) : Bool := nibAt nib 4 == 0x8

/-- The magnitude `M` of the six digits, most significant first (rule R173). -/
def frameMagnitude (nib : List Nibble) : Nat :=
  (nibAt nib 5).toNat * 100000 + (nibAt nib 6).toNat * 10000 + (nibAt nib 7).toNat * 1000 +
    (nibAt nib 8).toNat * 100 + (nibAt nib 9).toNat * 10 + (nibAt nib 10).toNat

/-- The decimal exponent `p` (rule R174). -/
def frameExponent (nib : List Nibble) : Nat := (nibAt nib 11).toNat

/-- The two table elements of a value (rule R91), in the configured `WORD_ORDER`. -/
def splitValue (order : WordOrder) (v : Pattern) : Word16 × Word16 :=
  match order with
  | .mswFirst => (v.extractLsb' 16 16, v.extractLsb' 0 16)
  | .lswFirst => (v.extractLsb' 0 16, v.extractLsb' 16 16)

/-- The write data of a host command of `count` elements (rule R96). -/
def writeData (s : State) (count : Nat) : List Word16 := s.hWdata.take count

end Sys2Proof.Machine
end

