-- ==== Sys2Proof/Machine/Flags.lean ====
section
/-! DEFINITION. The conditions the rules test: derived outputs, timeouts and enabling conditions. The
block "has no arithmetic condition codes" (rule R26). -/

namespace Sys2Proof.Machine

/-- `busy[c] = (phase[c] != P_IDLE)`: an output, not a register (rule R26). -/
def busy (s : State) (c : Nat) : Bool := (s.chan c).phase != pIdle

/-- Channel `c` is idle and its request flag is clear: a poll may be requested, or has ended (rules
R121 and R230). -/
def settled (s : State) (c : Nat) : Bool := !busy s c && !(s.chan c).ps

/-- No channel is busy (rule R107). -/
def noneBusy (s : State) : Bool := s.chans.all fun x => x.phase == pIdle

/-- Every channel is settled (rule R232). -/
def allSettled (s : State) : Bool := s.chans.all fun x => x.phase == pIdle && !x.ps

/-- `net_adv_start`: asserted in the slot `Q_NETADV` (rule R229); an output, not a register, since
"no state of the block other than `q`, `qc`, `qs` changes". -/
def netAdvStart (s : State) : Bool := s.q == qNetadv

/-- `timed_out(now, t0)` (rule R152): unsigned and strict, modulo `2^TICK_W` (log entry 21). -/
def timedOut (k : Config) (now t0 : Nat) : Bool := decide (tickDiff k now t0 > k.bitTimeoutTicks)

/-- The expiry test of `CH.ORIGIN` (rule R123): unsigned and strict, modulo `2^TICK_W` (log entry 21). -/
def originExpired (k : Config) (now oss : Nat) : Bool :=
  decide (tickDiff k now oss > k.originTimeoutTicks)

/-- The start marker of a received frame (rules R84 and R170). -/
def frameStartOk (nib : List Nibble) : Bool :=
  nibAt nib 0 == 0xF && nibAt nib 1 == 0xF && nibAt nib 2 == 0xF && nibAt nib 3 == 0xF

/-- The reserved code that a state holds, if it holds one: a phase code above `0x8`, a slot code above
`0b100`, or `h_status` 3 (rules R24, R101, R104 and R243). "A model refuses a state holding one". -/
def State.reservedCode (s : State) : Option Refusal :=
  match s.chans.find? (fun x => decide (8 < x.phase.toNat)) with
  | some x => some (.reservedPhase x.phase)
  | none =>
    if 4 < s.q.toNat then some (.reservedSlot s.q)
    else if s.hStatus = 3 then some .reservedStatus
    else none

end Sys2Proof.Machine
end

