-- ==== Sys2Proof/Machine/F32.lean ====
section
/-! DEFINITION. `f32_of_ratio` (rule R177): the binary32 pattern nearest to a ratio, on unbounded
integers. -/

namespace Sys2Proof.Machine

/-- `bitlen(x)`: the number of bits of `x`. -/
def bitlen (x : Nat) : Nat := if x = 0 then 0 else Nat.log2 x + 1

/-- The exponent `e` with `2^e <= M/D < 2^(e+1)`. -/
def f32Exponent (M D : Nat) : Int :=
  let e : Int := (bitlen M : Int) - (bitlen D : Int)
  if (0 ≤ e ∧ M < D * 2 ^ e.toNat) ∨ (e < 0 ∧ M * 2 ^ (-e).toNat < D) then e - 1 else e

/-- The numerator `num` of the scaled quotient, with `sh = 23 - e`. -/
def f32Num (M : Nat) (e : Int) : Nat := if 0 ≤ 23 - e then M * 2 ^ (23 - e).toNat else M

/-- The denominator `den` of the scaled quotient, with `sh = 23 - e`. -/
def f32Den (D : Nat) (e : Int) : Nat := if 0 ≤ 23 - e then D else D * 2 ^ (-(23 - e)).toNat

/-- The quotient rounded to nearest, ties to the even quotient. -/
def roundedQuotient (num den : Nat) : Nat :=
  if 2 * (num % den) > den ∨ (2 * (num % den) = den ∧ (num / den) % 2 = 1) then num / den + 1
  else num / den

/-- `(neg << 31) | ((e + 127) << 23) | (q - 2^23)` (rules R90 and R177). -/
def f32Pack (neg : Bool) (e : Int) (q : Nat) : Pattern :=
  (BitVec.ofNat 32 neg.toNat <<< 31) ||| (BitVec.ofNat 32 (e + 127).toNat <<< 23) |||
    BitVec.ofNat 32 (q - 2 ^ 23)

/-- `f32_of_ratio(neg, M, D)` (rule R177), with the parameter `NEG_ZERO` (rule R5). -/
def f32OfRatio (negZero neg : Bool) (M D : Nat) : Pattern :=
  if M = 0 then (if negZero then BitVec.ofNat 32 neg.toNat <<< 31 else 0)
  else
    let e := f32Exponent M D
    let q := roundedQuotient (f32Num M e) (f32Den D e)
    if q = 2 ^ 24 then f32Pack neg (e + 1) (2 ^ 23) else f32Pack neg e q

/-- The value pattern of a received frame (rules R172 to R178). -/
def frameValue (k : Config) (nib : List Nibble) : Pattern :=
  f32OfRatio k.negZero (frameNeg nib) (frameMagnitude nib) (10 ^ frameExponent nib)

end Sys2Proof.Machine
end

