-- ==== Sys2Proof/Machine/Poll.lean ====
section
/-! DEFINITION. The poll dispatch and the origin-set actuation (`40_poll_origin.md`, rules R121 to
R128). -/

namespace Sys2Proof.Machine

/-- `CH.POLL` (rule R121): taken when the channel is idle and a poll is requested; "otherwise: no
step (the channel is idle and stays idle)". -/
def execChPoll (c : Nat) (s : State) : Host.Outcome State Fault Refusal :=
  if (s.chan c).phase = pIdle ∧ (s.chan c).ps = true then
    .next (s.updChan c fun x => { x with ps := false, phase := pRdcoil })
  else .next s

/-- `CH.RDCOIL` (rule R122): read the origin coil and dispatch on the value just read. The case of a
clear coil during an actuation ends the poll (rule R128). -/
def execChRdcoil (c : Nat) (s : State) : Host.Outcome State Fault Refusal :=
  if s.cfg.coil c < s.cfg.n then
    let r := originCoilRead s c
    .next (s.updChan c fun x =>
      { x with
        rq := r
        phase := if r then pOrigin else if x.so then pIdle else pMstart })
  else .refused .invalidConfiguration

/-- The effect of `ORG.START` (rule R124). -/
def originStart (c : Nat) (now : Nat) (s : State) : State :=
  s.updChan c fun x => { x with org := true, oss := now, so := true, phase := pIdle }

/-- The effect of `ORG.EXPIRE` (rule R125). -/
def originExpire (c : Nat) (s : State) : State :=
  s.updChan c fun x => { x with org := false, so := false, phase := pClrcoil }

/-- The effect of `ORG.WAIT` (rule R126). -/
def originWait (c : Nat) (s : State) : State := s.setPhase c pIdle

/-- `CH.ORIGIN` (rule R123): reads the tick once and takes exactly one of its three outcomes. -/
def execChOrigin (c : Nat) (s : State) : Host.Outcome State Fault Refusal :=
  let now := tickRead s
  if (s.chan c).so = false then .next (originStart c now s)
  else if originExpired s.cfg now (s.chan c).oss then .next (originExpire c s)
  else .next (originWait c s)

/-- `ORG.START` (rule R124), the outcome of `CH.ORIGIN` when `so[c] = 0`; no step otherwise. -/
def execOrgStart (c : Nat) (s : State) : Host.Outcome State Fault Refusal :=
  if (s.chan c).so = false then .next (originStart c (tickRead s) s) else .next s

/-- `ORG.EXPIRE` (rule R125), the outcome of `CH.ORIGIN` when the hold time is over; no step
otherwise. -/
def execOrgExpire (c : Nat) (s : State) : Host.Outcome State Fault Refusal :=
  if (s.chan c).so = true ∧ originExpired s.cfg (tickRead s) (s.chan c).oss = true then
    .next (originExpire c s)
  else .next s

/-- `ORG.WAIT` (rule R126), the outcome of `CH.ORIGIN` when the hold time is not over; no step
otherwise. -/
def execOrgWait (c : Nat) (s : State) : Host.Outcome State Fault Refusal :=
  if (s.chan c).so = true ∧ originExpired s.cfg (tickRead s) (s.chan c).oss = false then
    .next (originWait c s)
  else .next s

/-- `CH.CLRCOIL` (rule R127): clear the origin coil, whatever it holds, and end the poll. -/
def execChClrcoil (c : Nat) (s : State) : Host.Outcome State Fault Refusal :=
  if s.cfg.coil c < s.cfg.n then
    .next ((s.memWrite .coil (s.cfg.coil c) [0]).setPhase c pIdle)
  else .refused .invalidConfiguration

end Sys2Proof.Machine
end

