-- ==== Sys2Proof/Machine/Measure.lean ====
section
/-! DEFINITION. The bit-serial measurement cycle (`41_measurement.md`, rules R141 to R153). -/

namespace Sys2Proof.Machine

/-- `CH.MSTART` (rule R141): raise the request output and start the first half-wait. -/
def execChMstart (c : Nat) (s : State) : Host.Outcome State Fault Refusal :=
  .next (s.updChan c fun x =>
    { x with req := true, ni := 0, bi := 0, t0 := tickRead s, phase := pWlow })

/-- The effect of `WLOW.PASS` (rule R143): the budget of the high-phase wait starts here. -/
def lowPass (c : Nat) (now : Nat) (s : State) : State :=
  s.updChan c fun x => { x with t0 := now, phase := pWhigh }

/-- `CH.WLOW` (rule R142): the pin is tested first, the time second. -/
def execChWlow (c : Nat) (s : State) : Host.Outcome State Fault Refusal :=
  let k := pinReadClk s c
  let now := tickRead s
  if k = true then .next (lowPass c now s)
  else if timedOut s.cfg now (s.chan c).t0 then .next (takeFailure (.timeout c) s)
  else .next s

/-- `WLOW.PASS` (rule R143), the outcome of `CH.WLOW` when the clock is high; no step otherwise. -/
def execWlowPass (c : Nat) (s : State) : Host.Outcome State Fault Refusal :=
  if pinReadClk s c = true then .next (lowPass c (tickRead s) s) else .next s

/-- `WLOW.TIMEOUT` (rule R144), the outcome of `CH.WLOW` when the clock is low and the budget is
exceeded; no step otherwise. -/
def execWlowTimeout (c : Nat) (s : State) : Host.Outcome State Fault Refusal :=
  if pinReadClk s c = false ∧ timedOut s.cfg (tickRead s) (s.chan c).t0 = true then
    .next (takeFailure (.timeout c) s)
  else .next s

/-- `WLOW.STAY` (rule R145): "Nothing changes; the channel's next step is `CH.WLOW` again." -/
def execWlowStay (_c : Nat) (s : State) : Host.Outcome State Fault Refusal := .next s

/-- The registers after `WHIGH.SAMPLE` (rule R146) of the data bit `b` at tick `now`. The rule's 12 is the
index of the last nibble, `NNIB - 1`. -/
def sampleRegs (k : Config) (b : Bool) (now : Nat) (x : Channel) : Channel :=
  let a := accumulate x.acc b
  if x.bi.toNat < 3 then { x with acc := a, t0 := now, bi := x.bi + 1, phase := pWlow }
  else
    { x with
      acc := a
      t0 := now
      nib := x.nib.set x.ni.toNat a
      bi := 0
      req := if x.ni = 0 then false else x.req
      ni := if x.ni.toNat < k.nnib - 1 then x.ni + 1 else x.ni
      phase := if x.ni.toNat < k.nnib - 1 then pWlow else pDecode }

/-- The effect of `WHIGH.SAMPLE` (rule R146): both pins are read in the same step. -/
def highSample (c : Nat) (b : Bool) (now : Nat) (s : State) : State :=
  s.updChan c (sampleRegs s.cfg b now)

/-- `CH.WHIGH` (rule R146): the pin is tested first, the time second. -/
def execChWhigh (c : Nat) (s : State) : Host.Outcome State Fault Refusal :=
  let k := pinReadClk s c
  let b := pinReadDat s c
  let now := tickRead s
  if k = false then .next (highSample c b now s)
  else if timedOut s.cfg now (s.chan c).t0 then .next (takeFailure (.timeout c) s)
  else .next s

/-- `WHIGH.SAMPLE` (rule R146), the outcome of `CH.WHIGH` when the clock is low; no step otherwise. -/
def execWhighSample (c : Nat) (s : State) : Host.Outcome State Fault Refusal :=
  if pinReadClk s c = false then .next (highSample c (pinReadDat s c) (tickRead s) s) else .next s

/-- `WHIGH.TIMEOUT` (rule R147), the outcome of `CH.WHIGH` when the clock is high and the budget is
exceeded; no step otherwise. -/
def execWhighTimeout (c : Nat) (s : State) : Host.Outcome State Fault Refusal :=
  if pinReadClk s c = true ∧ timedOut s.cfg (tickRead s) (s.chan c).t0 = true then
    .next (takeFailure (.timeout c) s)
  else .next s

/-- `WHIGH.STAY` (rule R148): "Nothing changes; the channel's next step is `CH.WHIGH` again." -/
def execWhighStay (_c : Nat) (s : State) : Host.Outcome State Fault Refusal := .next s

end Sys2Proof.Machine
end

