-- ==== Sys2Proof/Machine/Value.lean ====
section
/-! DEFINITION. Frame validation, decoding and the write of the value (`42_decode.md`, rules R170 to
R180). -/

namespace Sys2Proof.Machine

/-- The effect of `DEC.OK` (rule R178). -/
def decodeFrame (c : Nat) (s : State) : State :=
  s.updChan c fun x => { x with val := frameValue s.cfg x.nib, phase := pWrite }

/-- `CH.DECODE` (rule R170): validation, then computation. -/
def execChDecode (c : Nat) (s : State) : Host.Outcome State Fault Refusal :=
  if frameStartOk (s.chan c).nib then .next (decodeFrame c s)
  else .next (takeFailure (.invalidStart c) s)

/-- `DEC.INVALID` (rule R171), the outcome of `CH.DECODE` on a bad start marker; no step otherwise. -/
def execDecInvalid (c : Nat) (s : State) : Host.Outcome State Fault Refusal :=
  if frameStartOk (s.chan c).nib = false then .next (takeFailure (.invalidStart c) s) else .next s

/-- `DEC.OK` (rule R178), the outcome of `CH.DECODE` on a good start marker; no step otherwise. -/
def execDecOk (c : Nat) (s : State) : Host.Outcome State Fault Refusal :=
  if frameStartOk (s.chan c).nib = true then .next (decodeFrame c s) else .next s

/-- `CH.WRITE` (rule R180): both registers of the pair in one access. -/
def execChWrite (c : Nat) (s : State) : Host.Outcome State Fault Refusal :=
  if s.cfg.base c + 1 < s.cfg.n then
    let w := splitValue s.cfg.wordOrder (s.chan c).val
    .next ((s.memWrite .ireg (s.cfg.base c) [w.1, w.2]).updChan c fun x =>
      { x with res := resOk, phase := pIdle })
  else .refused .invalidConfiguration

end Sys2Proof.Machine
end

