-- ==== Sys2Proof/Machine/HostPort.lean ====
section
/-! DEFINITION. The host commands (`43_host_port.md`, rules R190 to R201). The command's write data is
the host port's `h_wdata`. -/

namespace Sys2Proof.Machine

/-- The command on the port is answered: `h_done = 1`, and "exactly one command is executed per
presentation" (rule R190), so it is presented no longer (log entry 8). -/
def State.answered (s : State) : State := { s with hDone := true, hValid := false }

/-- The admission of rule R191 after the test for the two illegal codes: the bounds, then the
command's own effect and `h_status <- HS_OK`. -/
def hostAdmit (addr count : Nat) (effect : State → State) (s : State) : State :=
  if inBounds s.cfg addr count then { effect s with hStatus := hsOk }.answered
  else (takeFailure .tableAccess s).answered

/-- The effect of a read (rules R194 to R197): `h_rdata[j]` for `j < count` is the element, and is
"not specified" above (rule R193), a free value. -/
def hostRead (sp : Space) (addr count : Nat) (s : State) : State :=
  { s.setRdata (fun j =>
      if j < count then s.table.read sp (addr + j) else Config.freeRdata s.free j) with
    free := s.free + 1 }

/-- The effect of a write (rules R198 and R199). -/
def hostWrite (sp : Space) (addr count : Nat) (s : State) : State :=
  s.memWrite sp addr (writeData s count)

/-- `H.RDC` (rule R194): read coils. -/
def execHRdc (addr count : Nat) (s : State) : Host.Outcome State Fault Refusal :=
  .next (hostAdmit addr count (hostRead .coil addr count) s)

/-- `H.RDD` (rule R195): read discrete inputs. -/
def execHRdd (addr count : Nat) (s : State) : Host.Outcome State Fault Refusal :=
  .next (hostAdmit addr count (hostRead .disc addr count) s)

/-- `H.RDH` (rule R196): read holding registers. -/
def execHRdh (addr count : Nat) (s : State) : Host.Outcome State Fault Refusal :=
  .next (hostAdmit addr count (hostRead .hold addr count) s)

/-- `H.RDI` (rule R197): read input registers. -/
def execHRdi (addr count : Nat) (s : State) : Host.Outcome State Fault Refusal :=
  .next (hostAdmit addr count (hostRead .ireg addr count) s)

/-- `H.WRC` (rule R198): write coils. -/
def execHWrc (addr count : Nat) (s : State) : Host.Outcome State Fault Refusal :=
  .next (hostAdmit addr count (hostWrite .coil addr count) s)

/-- `H.WRH` (rule R199): write holding registers. -/
def execHWrh (addr count : Nat) (s : State) : Host.Outcome State Fault Refusal :=
  .next (hostAdmit addr count (hostWrite .hold addr count) s)

/-- `H.ILL5` (rule R200): a write to the discrete inputs is refused by the block with
`UnsupportedCommand`, tested before the bounds (rule R191). -/
def execHIll5 (_addr _count : Nat) (s : State) : Host.Outcome State Fault Refusal :=
  .next (takeFailure .unsupported s).answered

/-- `H.ILL7` (rule R200): a write to the input registers fails the same way. -/
def execHIll7 (_addr _count : Nat) (s : State) : Host.Outcome State Fault Refusal :=
  .next (takeFailure .unsupported s).answered

/-- `HostExec` (rule R191) of the command on the port, by its code (rule R94). -/
def hostExec (s : State) : Host.Outcome State Fault Refusal :=
  match s.hCmd.toNat with
  | 0 => execHRdc s.hAddr s.hCount s
  | 1 => execHRdd s.hAddr s.hCount s
  | 2 => execHRdh s.hAddr s.hCount s
  | 3 => execHRdi s.hAddr s.hCount s
  | 4 => execHWrc s.hAddr s.hCount s
  | 5 => execHIll5 s.hAddr s.hCount s
  | 6 => execHWrh s.hAddr s.hCount s
  | _ => execHIll7 s.hAddr s.hCount s

end Sys2Proof.Machine
end

