-- ==== Sys2Proof/Machine/Glue.lean ====
section
/-! DEFINITION. The interrupt glue (`44_tick_flags_sequencer.md`, rules R217 to R222). -/

namespace Sys2Proof.Machine

/-- `TMR.EVT` (rule R220): the latch is set; an event on a set latch is merged with it. -/
def execTmrEvt (s : State) : Host.Outcome State Fault Refusal :=
  .next { s with tmrIrqPend := true }

/-- `TICK.INC` (rule R217): enabled when the latch is set; no step otherwise. -/
def execTickInc (s : State) : Host.Outcome State Fault Refusal :=
  if s.tmrIrqPend = true then .next (takeTimerInterrupt s) else .next s

/-- `ADP.EVT` (rule R221): the latch is set; an event on a set latch is merged with it. -/
def execAdpEvt (s : State) : Host.Outcome State Fault Refusal :=
  .next { s with adpIrqPend := true }

/-- `ADP.SET` (rule R222): enabled when the latch is set; no step otherwise. -/
def execAdpSet (s : State) : Host.Outcome State Fault Refusal :=
  if s.adpIrqPend = true then .next (takeAdapterInterrupt s) else .next s

end Sys2Proof.Machine
end

