-- ==== Sys2Proof/Machine/Sequencer.lean ====
section
/-! DEFINITION. The main-loop Sequencer (`44_tick_flags_sequencer.md`, rules R226 to R232). -/

namespace Sys2Proof.Machine

/-- `SEQ.SNAP` (rule R227). -/
def execSeqSnap (s : State) : Host.Outcome State Fault Refusal :=
  .next { s with netNow := tickRead s, q := qAdpclr }

/-- `SEQ.ADPCLR` (rule R228). -/
def execSeqAdpclr (s : State) : Host.Outcome State Fault Refusal :=
  .next { s with adapterPending := false, q := qNetadv }

/-- `SEQ.NETADV` (rule R229): waits for `net_adv_done`. -/
def execSeqNetadv (s : State) : Host.Outcome State Fault Refusal :=
  if s.netAdvDone = true then .next { s with qc := 0, qs := false, q := qCh } else .next s

/-- The end of channel `qc`'s poll (rule R230): the next channel, or the host's slot. -/
def nextChannel (s : State) : State :=
  if s.qc < s.cfg.nch - 1 then { s with qs := false, qc := s.qc + 1 }
  else { s with qs := false, q := qHost }

/-- `SEQ.CH` in `SERIAL` mode (rule R230). -/
def seqChSerial (s : State) : State :=
  if settled s s.qc then
    if s.qs = false then { s.updChan s.qc fun x => { x with ps := true } with qs := true }
    else nextChannel s
  else s

/-- Every channel's request flag set (rule R232). -/
def State.requestAll (s : State) : State :=
  { s with chans := s.chans.map fun x => { x with ps := true } }

/-- `SEQ.CH` in `CONCURRENT` mode (rule R232): all channels at once. -/
def seqChConcurrent (s : State) : State :=
  if allSettled s then
    if s.qs = false then { s.requestAll with qs := true } else { s with qs := false, q := qHost }
  else s

/-- `SEQ.CH` (rules R230 and R232); when its condition does not hold, no step. -/
def execSeqCh (s : State) : Host.Outcome State Fault Refusal :=
  match s.cfg.seqMode with
  | .serial => .next (seqChSerial s)
  | .concurrent => .next (seqChConcurrent s)

/-- `SEQ.HOST` (rule R231): at most one host command, and the slot passes without waiting. In
`CONCURRENT` mode "`HostExec` is detached from the `Q_HOST` slot" (rule R232; log entry 10). -/
def execSeqHost (s : State) : Host.Outcome State Fault Refusal :=
  if s.hValid = true ∧ s.cfg.seqMode = .serial then
    match hostExec s with
    | .next t => .next { t with hDone := true, q := qSnap }
    | .fault r => .fault r
    | .refused r => .refused r
  else .next { s with q := qSnap }

end Sys2Proof.Machine
end

