-- ==== Sys2Proof/Machine/Script.lean ====
section
/-! DEFINITION. The pseudo-events of the event-script notation (rules R107 and R108) as lists of
entries, and the two rows of the opcode table that are formats: `FRAME` and `VALUE`. -/

namespace Sys2Proof.Machine

/-- `TMR`: `TMR.EVT` then `TICK.INC` (rule R107). -/
def scriptTmr : List Item := [.ev (.glue 0b00), .ev (.glue 0b01)]

/-- `ADP`: `ADP.EVT` then `ADP.SET` (rule R107). -/
def scriptAdp : List Item := [.ev (.glue 0b10), .ev (.glue 0b11)]

/-- `TICKS n`: `TMR` repeated `n` times (rule R108). -/
def scriptTicks : Nat → List Item
  | 0 => []
  | n + 1 => scriptTmr ++ scriptTicks n

/-- `BIT c b` (rule R108). -/
def scriptBit (c : Nat) (b : Bool) : List Item :=
  [.ev (.dat c b), .ev (.clk c true), .ev (.chan c), .ev (.clk c false), .ev (.chan c)]

/-- `NIB c x`: least significant bit first (rules R82 and R108). -/
def scriptNib (c : Nat) (x : Nibble) : List Item :=
  scriptBit c (x.getLsbD 0) ++ scriptBit c (x.getLsbD 1) ++ scriptBit c (x.getLsbD 2) ++
    scriptBit c (x.getLsbD 3)

/-- `FRAME c n0 n1 ...`: the nibbles in order (rule R108), with any start marker. -/
def scriptFrame (c : Nat) : List Nibble → List Item
  | [] => []
  | n :: ns => scriptNib c n ++ scriptFrame c ns

/-- `POLL c` (rule R108): its first three events, then `STEP c` until idle or waiting for the clock. -/
def scriptPoll (c : Nat) : List Item :=
  [.start c, .ev (.chan c), .ev (.chan c), .settle c]

/-- `FRAME` (rules R81 and R108): the sensor of channel `c` sends the frame's 52 bits, bit by bit, and
the channel takes its steps: the pseudo-event's expansion is placed before the rest of the script. -/
def execFrame (c : Nat) (start : BitVec 16) (sign d0 d1 d2 d3 d4 d5 dp rsv : Nibble) (s : State) :
    Host.Outcome State Fault Refusal :=
  .next { s with
    script := scriptFrame c
      [startNibble start 0, startNibble start 1, startNibble start 2, startNibble start 3,
        sign, d0, d1, d2, d3, d4, d5, dp, rsv] ++ s.script }

/-- `VALUE` (rule R90): the opcode table says "data format of the stored value, not an operation", so
no step of the block has it as its operation. -/
def execValue (_sgn : BitVec 1) (_expo : BitVec 8) (_frac : BitVec 23) (_s : State) :
    Host.Outcome State Fault Refusal :=
  .refused .notAnOperation

end Sys2Proof.Machine
end

