-- ==== Sys2Proof/Machine/Dispatch.lean ====
section
/-! DEFINITION. The meaning of every operation: one arm per constructor of `Instr`. -/

namespace Sys2Proof.Machine

def exec (i : Instr) (s : State) : Host.Outcome State Fault Refusal :=
  match i with
  | .chPoll c => Sys2Proof.Machine.execChPoll c s
  | .chRdcoil c => Sys2Proof.Machine.execChRdcoil c s
  | .chOrigin c => Sys2Proof.Machine.execChOrigin c s
  | .orgStart c => Sys2Proof.Machine.execOrgStart c s
  | .orgExpire c => Sys2Proof.Machine.execOrgExpire c s
  | .orgWait c => Sys2Proof.Machine.execOrgWait c s
  | .chClrcoil c => Sys2Proof.Machine.execChClrcoil c s
  | .chMstart c => Sys2Proof.Machine.execChMstart c s
  | .chWlow c => Sys2Proof.Machine.execChWlow c s
  | .wlowPass c => Sys2Proof.Machine.execWlowPass c s
  | .wlowTimeout c => Sys2Proof.Machine.execWlowTimeout c s
  | .wlowStay c => Sys2Proof.Machine.execWlowStay c s
  | .chWhigh c => Sys2Proof.Machine.execChWhigh c s
  | .whighSample c => Sys2Proof.Machine.execWhighSample c s
  | .whighTimeout c => Sys2Proof.Machine.execWhighTimeout c s
  | .whighStay c => Sys2Proof.Machine.execWhighStay c s
  | .chDecode c => Sys2Proof.Machine.execChDecode c s
  | .decInvalid c => Sys2Proof.Machine.execDecInvalid c s
  | .decOk c => Sys2Proof.Machine.execDecOk c s
  | .chWrite c => Sys2Proof.Machine.execChWrite c s
  | .hRdc addr count => Sys2Proof.Machine.execHRdc addr count s
  | .hRdd addr count => Sys2Proof.Machine.execHRdd addr count s
  | .hRdh addr count => Sys2Proof.Machine.execHRdh addr count s
  | .hRdi addr count => Sys2Proof.Machine.execHRdi addr count s
  | .hWrc addr count => Sys2Proof.Machine.execHWrc addr count s
  | .hIll5 addr count => Sys2Proof.Machine.execHIll5 addr count s
  | .hWrh addr count => Sys2Proof.Machine.execHWrh addr count s
  | .hIll7 addr count => Sys2Proof.Machine.execHIll7 addr count s
  | .tmrEvt => Sys2Proof.Machine.execTmrEvt s
  | .tickInc => Sys2Proof.Machine.execTickInc s
  | .adpEvt => Sys2Proof.Machine.execAdpEvt s
  | .adpSet => Sys2Proof.Machine.execAdpSet s
  | .seqSnap => Sys2Proof.Machine.execSeqSnap s
  | .seqAdpclr => Sys2Proof.Machine.execSeqAdpclr s
  | .seqNetadv => Sys2Proof.Machine.execSeqNetadv s
  | .seqCh => Sys2Proof.Machine.execSeqCh s
  | .seqHost => Sys2Proof.Machine.execSeqHost s
  | .frame c start sign d0 d1 d2 d3 d4 d5 dp rsv => Sys2Proof.Machine.execFrame c start sign d0 d1 d2 d3 d4 d5 dp rsv s
  | .value sgn expo frac => Sys2Proof.Machine.execValue sgn expo frac s

end Sys2Proof.Machine
end

