-- ==== Sys2Proof/Machine/Fetch.lean ====
section
/-! DEFINITION. Which operation the machine runs next: the schedule's choice of an agent (rule R37) and
the code that the agent's register or wire holds (rules R100 to R102 and R93). -/

namespace Sys2Proof.Machine

/-- What a choice of the schedule leads to. -/
inductive Selected
  /-- An operation's code, to be run in the given state. -/
  | operation (k : Code) (s : State)
  /-- A step of the environment or of the test bench, done; or no step. -/
  | done (s : State)
  /-- A step the spec refuses. -/
  | stop (r : Refusal)

/-- One agent's step (rule R9). A channel, the Sequencer and the glue run the operation of their
code; `HOST` runs the command on the port at its own time only in `CONCURRENT` mode (rules R202 and
R232), and has no step otherwise. The others are the environment's. -/
def selectEvent (e : Event) (s : State) : Selected :=
  match e with
  | .chan c => .operation (.s c (s.chan c).phase) s
  | .seq => .operation (.q s.q) s
  | .glue code => .operation (.e code) s
  | .host =>
    if s.hValid = true ∧ s.cfg.seqMode = .concurrent then .operation (.h s.portWord) s else .done s
  | .present word data => .done (s.present word data)
  | .clk c v => .done (s.driveClk c v)
  | .dat c v => .done (s.driveDat c v)
  | .netDone v => .done { s with netAdvDone := v }
  | .rst => .done s.applyReset

/-- `START c` (rules R107 and R121): sets the request flag in place of the Sequencer; "a model refuses
a `START c` event in any other state". -/
def selectStart (c : Nat) (s : State) : Selected :=
  if settled s c then .done (s.updChan c fun x => { x with ps := true })
  else .stop (.startWhileBusy c)

/-- `HOST cmd addr count [data]` (rule R107): the command is presented and run at once where it is
legal ("in `SERIAL` mode only when no channel is busy"); else it waits at the port (rule R202). A
port that holds a waiting command takes no other (log entry 8). -/
def selectHost (word : Nat) (data : HostData) (s : State) : Selected :=
  if s.hValid = true then .done s
  else if s.cfg.seqMode = .concurrent ∨ noneBusy s = true then
    .operation (.h word) (s.present word data)
  else .done (s.present word data)

/-- `STEP c` until `phase[c]` is `P_IDLE` or `P_WLOW` (rule R108). -/
def selectSettle (c : Nat) (s : State) : Selected :=
  if (s.chan c).phase = pIdle ∨ (s.chan c).phase = pWlow then .done s
  else .done { s with script := .ev (.chan c) :: .settle c :: s.script }

/-- What an entry of the script leads to. -/
def selectItem (it : Item) (s : State) : Selected :=
  match it with
  | .ev e => selectEvent e s
  | .start c => selectStart c s
  | .host word data => selectHost word data s
  | .poll c => .done { s with script := scriptPoll c ++ s.script }
  | .settle c => selectSettle c s
  | .frame c word => .operation (.f c word) s
  | .value pattern => .operation (.v pattern) s

/-- The machine's next choice: the script's first entry, or with no entry left the free schedule's
(log entry 4). -/
def select (s : State) : Selected :=
  match s.script with
  | it :: rest => selectItem it { s with script := rest }
  | [] => selectEvent (Config.schedule s.free) { s with free := s.free + 1 }

/-- The refusal of a code that is no operation. -/
def refusalOf : DecodeError → Refusal
  | .reservedPhase code => .reservedPhase code
  | .reservedSlot code => .reservedSlot code

/-- A code is decoded and its operation run. -/
def runCode (k : Code) (s : State) : Host.Outcome State Fault Refusal :=
  match decode s.cfg k with
  | .ok i => exec i s
  | .error e => .refused (refusalOf e)

/-- A choice is carried out. -/
def runSelected : Selected → Host.Outcome State Fault Refusal
  | .operation k s => runCode k s
  | .done s => .next s
  | .stop r => .refused r

/-- One step: a configuration that breaks rule R6, and a state that holds a reserved code (rule R104), are
refused; else the machine's next choice is carried out. -/
def runStep (s : State) : Host.Outcome State Fault Refusal :=
  if s.cfg.valid then
    match s.reservedCode with
    | some r => .refused r
    | none => runSelected (select s)
  else .refused .invalidConfiguration

/-- A table word placed as the machine's next operation: a phase code in channel 0's phase register
with channel 0 chosen, a slot code in `q` with the Sequencer chosen, an event code, a host command
with the data that is on the port, a frame of channel 0, a V word (log entries 4 and 13). -/
def placeWord (s : State) (nbits w : Nat) : State :=
  if nbits = 8 ∨ nbits = 4 then
    { s.setPhase 0 (BitVec.ofNat 4 w) with script := .ev (.chan 0) :: s.script }
  else if nbits = 3 then { s with q := BitVec.ofNat 3 w, script := .ev .seq :: s.script }
  else if nbits = 2 then { s with script := .ev (.glue (BitVec.ofNat 2 w)) :: s.script }
  else if nbits = 40 ∨ nbits = 35 then
    { s with hValid := false, script := .host w s.hWdata :: s.script }
  else if nbits = 56 ∨ nbits = 52 then
    { s with script := .frame 0 (BitVec.ofNat 52 w) :: s.script }
  else if nbits = 32 then { s with script := .value (BitVec.ofNat 32 w) :: s.script }
  else s

end Sys2Proof.Machine
end

