-- ==== Sys2Proof/Machine/Step.lean ====
section
/-! DEFINITION. The step function of the machine, and where it fetches its next operation. -/

namespace Sys2Proof.Machine

/-- One step of the machine (rule R9): one atomic step of the agent the schedule chooses. -/
def step (s : State) : Host.Outcome State Fault Refusal := runStep s

/-- `s` with a table word stored where `step` fetches its next operation. -/
def State.withFetchWord (s : State) (nbits w : Nat) : State := placeWord s nbits w

end Sys2Proof.Machine
end

