-- ==== Sys2Proof/Safety.lean ====
section
/-! DEFINITION. The words the statements use: legal states (rule R38), the shape
of a state (rule R20), the properties of
`95_test_vectors.md` section 4, the agents of operations (rule R262), and the value of a pattern
(rule R90). -/

namespace Sys2Proof.Machine

/-! ## What a state may be -/

/-- The first clauses of rule R38 for one channel: a phase code in use, `ni` the index of a nibble (`<= 12`
with 13 nibbles), and a request flag only while idle. (`bi <= 3` holds by the width of `bi`.) -/
def Channel.legal (k : Config) (x : Channel) : Prop :=
  x.phase.toNat ≤ 8 ∧ x.ni.toNat ≤ k.nnib - 1 ∧ (x.ps = true → x.phase = pIdle)

/-- The first clauses of rule R38: every channel legal, the slot code in use, `qc < NCH`; and `h_status`
not the code that is "never produced" (rule R243). -/
def State.legal (s : State) : Prop :=
  (∀ c, (s.chan c).legal s.cfg) ∧ s.q.toNat ≤ 4 ∧ s.qc < s.cfg.nch ∧ s.hStatus ≠ 3

/-- The Register Table has `N` elements in each space (rule R31). -/
def Table.shaped (k : Config) (t : Table) : Prop :=
  t.coils.length = k.n ∧ t.discrete.length = k.n ∧ t.holding.length = k.n ∧ t.inputs.length = k.n

/-- A channel's frame buffer has `NNIB` entries and its tick registers `TICK_W` bits (rules R20 and R23). -/
def Channel.shaped (k : Config) (x : Channel) : Prop :=
  x.nib.length = k.nnib ∧ x.oss < 2 ^ k.tickW ∧ x.t0 < 2 ^ k.tickW

/-- The state has the counts and widths of its configuration (rules R5, R20, R32): `NCH` channels and pins,
`N` elements in each list of the table and the host port, counts of `TICK_W`, `ADDR_W` and `COUNT_W`
bits. -/
def State.shaped (s : State) : Prop :=
  s.table.shaped s.cfg ∧ s.chans.length = s.cfg.nch ∧ (∀ x ∈ s.chans, x.shaped s.cfg) ∧
  s.pinClk.length = s.cfg.nch ∧ s.pinDat.length = s.cfg.nch ∧
  s.hRdata.length = s.cfg.n ∧ s.hWdata.length = s.cfg.n ∧
  s.tick < 2 ^ s.cfg.tickW ∧ s.netNow < 2 ^ s.cfg.tickW ∧
  s.hAddr < 2 ^ s.cfg.addrW ∧ s.hCount < 2 ^ s.cfg.countW

/-- The step takes this state: its configuration is valid (rule R6) and it holds no reserved code (rule
R104). -/
def State.accepted (s : State) : Prop := s.cfg.valid = true ∧ s.reservedCode = none

/-- The last clause of rule R38, with the request flag: in `SERIAL` mode a channel that is busy or
requested is `qc`, with `q = Q_CH` and its poll requested. -/
def State.serialExclusive (s : State) : Prop :=
  s.cfg.seqMode = .serial →
    ∀ c, settled s c = false → s.q = qCh ∧ s.qs = true ∧ s.qc = c

/-- The script entry stands in place of the Sequencer and starts a poll (rule R107). -/
def Item.startsPoll : Item → Bool
  | .start _ | .poll _ => true
  | .ev _ | .host _ _ | .settle _ | .frame _ _ | .value _ => false

/-- The Sequencer alone starts polls: the test bench's `START` and `POLL` are not in the script. -/
def State.sequencerStartsPolls (s : State) : Prop := ∀ it ∈ s.script, Item.startsPoll it = false

/-- Property 4 of `95_test_vectors.md` section 4: `org[c] = 1` if and only if `so[c] = 1`. -/
def State.originOutputsAgree (s : State) : Prop := ∀ c, (s.chan c).org = (s.chan c).so

/-- The channel measures: `P_MSTART` to `P_WRITE` (rule R24). -/
def Channel.measuring (x : Channel) : Prop := 4 ≤ x.phase.toNat ∧ x.phase.toNat ≤ 8

/-- What a channel's registers say of the poll it is in (rules R122, R131, R149 and R150): no
measurement while the coil was read set or an actuation is in progress; the origin step only with the
coil set; the request output high exactly during nibble 0; a decode only after the whole frame. -/
def Channel.pollConsistent (k : Config) (x : Channel) : Prop :=
  (x.measuring → x.rq = false ∧ x.so = false) ∧
  (x.phase = pOrigin → x.rq = true) ∧
  (x.phase = pClrcoil → x.so = false) ∧
  (x.phase = pWlow ∨ x.phase = pWhigh → (x.req = true ↔ x.ni = 0)) ∧
  (x.phase = pDecode → x.ni.toNat = k.nnib - 1 ∧ x.bi = 0 ∧ x.req = false) ∧
  (x.phase = pWrite → x.req = false)

/-- Property 6 of `95_test_vectors.md` section 4. -/
def State.discreteZero (s : State) : Prop :=
  s.table.discrete = List.replicate s.cfg.n false

/-- The schedule's choice is the reset input (rule R290). -/
def State.choosesReset (s : State) : Prop :=
  (∃ rest, s.script = .ev .rst :: rest) ∨ (s.script = [] ∧ Config.schedule s.free = .rst)

/-! ## The agents of operations -/

/-- The channel whose step an operation is; none for the other agents' operations. -/
def channelOf : Instr → Option Nat
  | .chPoll c | .chRdcoil c | .chOrigin c | .orgStart c | .orgExpire c | .orgWait c
  | .chClrcoil c | .chMstart c | .chWlow c | .wlowPass c | .wlowTimeout c | .wlowStay c
  | .chWhigh c | .whighSample c | .whighTimeout c | .whighStay c | .chDecode c
  | .decInvalid c | .decOk c | .chWrite c => some c
  | .hRdc _ _ | .hRdd _ _ | .hRdh _ _ | .hRdi _ _ | .hWrc _ _ | .hIll5 _ _ | .hWrh _ _
  | .hIll7 _ _ | .tmrEvt | .tickInc | .adpEvt | .adpSet | .seqSnap | .seqAdpclr | .seqNetadv
  | .seqCh | .seqHost | .frame _ _ _ _ _ _ _ _ _ _ _ | .value _ _ _ => none

end Sys2Proof.Machine

namespace Sys2Proof

/-! ## The value of a pattern -/

/-- The biased exponent field, bits 30:23 (rule R90). -/
def patternExponent (v : Pattern) : Nat := (v.extractLsb' 23 8).toNat

/-- The fraction field, bits 22:0 (rule R90). -/
def patternFraction (v : Pattern) : Nat := (v.extractLsb' 0 23).toNat

/-- A normal pattern: `1 <= E <= 254` (rule R90). -/
def normalPattern (v : Pattern) : Prop := 1 ≤ patternExponent v ∧ patternExponent v ≤ 254

/-- The value of a normal pattern, `(-1)^s × 2^(E-127) × (1 + f / 2^23)` (rule R90). -/
def patternValue (v : Pattern) : ℚ :=
  (if v.getLsbD 31 then -1 else 1) * (2 : ℚ) ^ ((patternExponent v : ℤ) - 127) *
    (1 + (patternFraction v : ℚ) / 2 ^ 23)

end Sys2Proof
end

