-- ==== Sys2Proof/Certificates/Slice0/Obligations.lean ====
section
/-! DEFINITION. The statements for the provers, in the order of `OBLIGATIONS.json`. `r<n>` in a
docstring is rule R<n> of the spec. -/

open Sys2Proof Sys2Proof.Machine

/-! ## Codes -/

/-- In every configuration, decoding the code of a well-formed instruction gives the operation it is an
outcome of (the instruction itself where it is no outcome), with every operand (rules R81, R90, R93,
R94, R100, R101, R102, R106). The layout of an H word with field widths other than 16 is the model's
choice (log entry 24). -/
def Obligations.DecodeOfEncodeIsTheOperation : Prop :=
  ∀ (k : Config) (i : Instr), i.wf k = true → decode k (encode k i) = .ok i.operation

/-- A code that fits its format and decodes is the code of what it decodes to: no bit of any format is
dropped, and what is decoded is well formed and no outcome. The layout of an H word with field widths
other than 16 is the model's choice (log entry 24). -/
def Obligations.DecodedCodeEncodesBack : Prop :=
  ∀ (k : Config) (code : Code) (i : Instr), code.wf k = true → decode k code = .ok i →
    encode k i = code ∧ i.wf k = true ∧ i.operation = i

/-- The host command map (rule R94) over the 35-bit word of rule R93: the three top bits select, the two
16-bit fields are `addr` and `count`. -/
def Obligations.HostCommandMap : Prop :=
  ∀ addr count : BitVec 16,
    decode Config.reference (.h (0b000#3 ++ addr ++ count).toNat) =
      .ok (.hRdc addr.toNat count.toNat) ∧
    decode Config.reference (.h (0b001#3 ++ addr ++ count).toNat) =
      .ok (.hRdd addr.toNat count.toNat) ∧
    decode Config.reference (.h (0b010#3 ++ addr ++ count).toNat) =
      .ok (.hRdh addr.toNat count.toNat) ∧
    decode Config.reference (.h (0b011#3 ++ addr ++ count).toNat) =
      .ok (.hRdi addr.toNat count.toNat) ∧
    decode Config.reference (.h (0b100#3 ++ addr ++ count).toNat) =
      .ok (.hWrc addr.toNat count.toNat) ∧
    decode Config.reference (.h (0b101#3 ++ addr ++ count).toNat) =
      .ok (.hIll5 addr.toNat count.toNat) ∧
    decode Config.reference (.h (0b110#3 ++ addr ++ count).toNat) =
      .ok (.hWrh addr.toNat count.toNat) ∧
    decode Config.reference (.h (0b111#3 ++ addr ++ count).toNat) =
      .ok (.hIll7 addr.toNat count.toNat)

/-- Words written out from the spec's encodings decode to their operations, at least one of each format
(rules R81, R90, R93, R100, R101, R102); a frame with a bad start marker is a frame (rule R104). -/
def Obligations.WrittenWordsDecode : Prop :=
  decode Config.reference (.s 1 0b0101) = .ok (.chWlow 1) ∧
  decode Config.reference (.s 0 0b1000) = .ok (.chWrite 0) ∧
  decode Config.reference (.q 0b011) = .ok .seqCh ∧
  decode Config.reference (.e 0b01) = .ok .tickInc ∧
  decode Config.reference (.h 0x300060003) = .ok (.hRdi 6 3) ∧
  decode Config.reference (.h 0x600070001) = .ok (.hWrh 7 1) ∧
  decode Config.reference (.f 0 0xFFFF800015021) = .ok (.frame 0 0xFFFF 8 0 0 0 1 5 0 2 1) ∧
  decode Config.reference (.f 1 0xFFEF001234530) = .ok (.frame 1 0xFFEF 0 0 1 2 3 4 5 3 0) ∧
  decode Config.reference (.v 0xBFC00000) = .ok (.value 1 127 0x400000)

/-- Reserved phase and slot codes are refused by the decoder, and a state that holds a reserved phase,
slot or status code is refused (rules R24, R104, R243; U9). Two things are the model's reading, log
entry 23: that every step is refused, whichever agent would take it, the reset of rule R290 among them;
and the order of the refusals, a phase before the slot before the status. -/
def Obligations.ReservedCodesAreRefused : Prop :=
  (∀ (k : Config) (c : Nat) (p : BitVec 4), 9 ≤ p.toNat →
    decode k (.s c p) = .error (.reservedPhase p)) ∧
  (∀ (k : Config) (p : BitVec 3), 5 ≤ p.toNat → decode k (.q p) = .error (.reservedSlot p)) ∧
  (∀ s : State, s.cfg.valid = true → (∃ x ∈ s.chans, 9 ≤ x.phase.toNat) →
    ∃ x ∈ s.chans, 9 ≤ x.phase.toNat ∧ step s = .refused (.reservedPhase x.phase)) ∧
  (∀ s : State, s.cfg.valid = true → (∀ x ∈ s.chans, x.phase.toNat ≤ 8) → 5 ≤ s.q.toNat →
    step s = .refused (.reservedSlot s.q)) ∧
  (∀ s : State, s.cfg.valid = true → (∀ x ∈ s.chans, x.phase.toNat ≤ 8) → s.q.toNat ≤ 4 →
    s.hStatus = 3 → step s = .refused .reservedStatus)

/-! ## The step -/

/-- A step runs the decoded operation: of a channel's phase register, of the slot register, of an
event code, of a host command taken by the port (which first holds its word and data), of a frame
word. Around the operation the step only takes the entry off the script. (The script is the model's
form of the schedule, log entry 4; the port's handshake is log entry 8, its data lines log entry 9, a
`HOST` entry log entry 16, the layout of an H word with field widths other than 16 log entry 24.) -/
def Obligations.StepRunsTheDecodedOperation : Prop :=
  ∀ (s : State) (rest : List Item) (i : Instr), s.accepted →
    (∀ c : Nat, s.script = .ev (.chan c) :: rest →
      decode s.cfg (.s c (s.chan c).phase) = .ok i → step s = exec i { s with script := rest }) ∧
    (s.script = .ev .seq :: rest → decode s.cfg (.q s.q) = .ok i →
      step s = exec i { s with script := rest }) ∧
    (∀ e : BitVec 2, s.script = .ev (.glue e) :: rest → decode s.cfg (.e e) = .ok i →
      step s = exec i { s with script := rest }) ∧
    (∀ (w : Nat) (d : HostData), s.script = .host w d :: rest → decode s.cfg (.h w) = .ok i →
      s.hValid = false → (s.cfg.seqMode = .concurrent ∨ ∀ x ∈ s.chans, x.phase = pIdle) →
      step s = exec i { s with
        script := rest, hValid := true, hDone := false, hWdata := s.drivenData d,
        hCmd := hCmdOf s.cfg w, hAddr := hAddrOf s.cfg w, hCount := hCountOf s.cfg w }) ∧
    (s.script = .ev .host :: rest → s.hValid = true → s.cfg.seqMode = .concurrent →
      decode s.cfg (.h (hostWord s.cfg s.hCmd s.hAddr s.hCount)) = .ok i →
      step s = exec i { s with script := rest }) ∧
    (∀ (c : Nat) (w : BitVec 52), s.script = .frame c w :: rest → decode s.cfg (.f c w) = .ok i →
      step s = exec i { s with script := rest })

/-- The model's own interface (log entries 4 and 13): a table word that decodes, placed where the machine
fetches, is what the next step runs (in a configuration with the table's field widths; for a host
command, while no channel is busy). -/
def Obligations.PlacedWordIsRunNext : Prop :=
  ∀ (s : State) (nbits w : Nat) (i : Instr), s.accepted → s.cfg.addrW = 16 → s.cfg.countW = 16 →
    0 < s.chans.length → decodeTableWord nbits w = some i → (∀ x ∈ s.chans, x.phase = pIdle) →
    ∃ (k : Code) (s1 : State), select (s.withFetchWord nbits w) = .operation k s1 ∧
      decode s.cfg k = .ok i ∧ step (s.withFetchWord nbits w) = exec i s1 ∧ s1.script = s.script

/-- Rule R6, whole: what a valid configuration is, that the reference configuration is valid, and that
any other is refused. -/
def Obligations.OnlyValidConfigurationsRun : Prop :=
  (∀ k : Config, k.valid = true ↔
    (∀ c : Nat, c < k.nch → k.coil c < k.n ∧ k.base c + 1 < k.n) ∧
    (∀ c d : Nat, c < k.nch → d < k.nch → c ≠ d → k.coil c ≠ k.coil d ∧
      ∀ i j : Nat, (i = k.base c ∨ i = k.base c + 1) →
        (j = k.base d ∨ j = k.base d + 1) → i ≠ j)) ∧
  Config.reference.valid = true ∧
  ∀ s : State, s.cfg.valid = false → step s = .refused .invalidConfiguration

/-- `START c` sets the request flag of an idle, unrequested channel and is refused in any other state
(rules R107, R121). -/
def Obligations.StartIsRefusedWhileBusyOrRequested : Prop :=
  ∀ (s : State) (c : Nat) (rest : List Item), s.accepted → s.script = .start c :: rest →
    ((s.chan c).phase = pIdle ∧ (s.chan c).ps = false →
      step s = .next
        { s.updChan c (fun x => { x with ps := true }) with script := rest }) ∧
    ((s.chan c).phase ≠ pIdle ∨ (s.chan c).ps = true →
      step s = .refused (.startWhileBusy c))

/-! ## Reset -/

/-- The reset values of rule R39 that are elements of the block's state, in every configuration, and that
the Sequencer's first operation is `SEQ.SNAP` (rule R290); `State.reset` is that of the reference
configuration. -/
def Obligations.ResetLeavesTheSpecValues : Prop :=
  State.reset = State.resetIn Config.reference ∧
  ∀ k : Config, (State.resetIn k).cfg = k ∧ (State.resetIn k).tick = 0 ∧
    (State.resetIn k).table =
      { coils := List.replicate k.n false, discrete := List.replicate k.n false,
        holding := List.replicate k.n 0, inputs := List.replicate k.n 0 } ∧
    (State.resetIn k).chans = List.replicate k.nch
      { so := false, oss := 0, req := false, org := false, phase := pIdle, ni := 0, bi := 0,
        rq := false, acc := 0, t0 := 0, val := 0, nib := List.replicate k.nnib 0,
        res := resNone, ps := false } ∧
    (State.resetIn k).adapterPending = false ∧ (State.resetIn k).tmrIrqPend = false ∧
    (State.resetIn k).adpIrqPend = false ∧ (State.resetIn k).q = qSnap ∧
    (State.resetIn k).qc = 0 ∧ (State.resetIn k).qs = false ∧ (State.resetIn k).netNow = 0 ∧
    (State.resetIn k).hStatus = hsOk ∧ (State.resetIn k).hRdata = List.replicate k.n 0 ∧
    decode k (.q (State.resetIn k).q) = .ok .seqSnap

/-- The reset input, sampled high in any state that the step takes, gives every element of rule R20 its
reset value, whatever the block was doing (rules R290, R291); what the environment drives stays (log
entry 14). -/
def Obligations.ResetInputRestoresEveryElement : Prop :=
  ∀ (s : State) (rest : List Item), s.accepted → s.script = .ev .rst :: rest →
    ∃ t, step s = .next t ∧
      t.tick = 0 ∧ t.table = (State.resetIn s.cfg).table ∧ t.chans = (State.resetIn s.cfg).chans ∧
      t.adapterPending = false ∧ t.tmrIrqPend = false ∧ t.adpIrqPend = false ∧
      t.q = qSnap ∧ t.qc = 0 ∧ t.qs = false ∧ t.netNow = 0 ∧ t.hStatus = hsOk ∧
      t.hRdata = (State.resetIn s.cfg).hRdata ∧ t.cfg = s.cfg ∧ t.pinClk = s.pinClk ∧
      t.pinDat = s.pinDat ∧ t.netAdvDone = s.netAdvDone ∧ t.script = rest

/-! ## Poll and origin-set -/

/-- `CH.POLL` (rule R121). That "no step" is the unchanged state is log entry 3. -/
def Obligations.PollTakesUpTheRequest : Prop :=
  ∀ (c : Nat) (s : State), c < s.chans.length →
    ((s.chan c).phase = pIdle → (s.chan c).ps = true →
      ∃ t, exec (.chPoll c) s = .next t ∧ t = { s with chans := t.chans } ∧
        t.chan c = { s.chan c with ps := false, phase := pRdcoil } ∧
        ∀ d, d ≠ c → t.chan d = s.chan d) ∧
    ((s.chan c).phase ≠ pIdle ∨ (s.chan c).ps = false → exec (.chPoll c) s = .next s)

/-- `CH.RDCOIL` (rule R122): the dispatch on the coil `r` just read. -/
def Obligations.CoilReadDispatchesThePoll : Prop :=
  ∀ (c : Nat) (s : State) (r : Bool), c < s.chans.length → s.cfg.coil c < s.cfg.n →
    s.table.coils[s.cfg.coil c]? = some r →
    ∃ t, exec (.chRdcoil c) s = .next t ∧ t = { s with chans := t.chans } ∧
      (∀ d, d ≠ c → t.chan d = s.chan d) ∧
      (r = true → t.chan c = { s.chan c with rq := true, phase := pOrigin }) ∧
      (r = false → (s.chan c).so = true →
        t.chan c = { s.chan c with rq := false, phase := pIdle }) ∧
      (r = false → (s.chan c).so = false →
        t.chan c = { s.chan c with rq := false, phase := pMstart })

/-- `CH.ORIGIN` (rules R123 to R126) takes exactly one of its three outcomes, and each row is that
outcome: start when no actuation is in progress; expiry when the elapsed ticks exceed
`ORIGIN_TIMEOUT_TICKS` (with 10 000, first at elapsed 10 001); else waiting (with 10 000, still at
elapsed 10 000). The rest of the machine, the coil and `req[c]` among it, is unchanged. The elapsed ticks
are modulo `2^TICK_W`; with another width than the rules' 64 that is the model's reading (log entry 21). -/
def Obligations.OriginStepTakesItsOutcome : Prop :=
  ∀ (c : Nat) (s : State), c < s.chans.length →
    ((s.chan c).so = false →
      ∃ t, exec (.chOrigin c) s = .next t ∧ exec (.orgStart c) s = .next t ∧
        t = { s with chans := t.chans } ∧ (∀ d, d ≠ c → t.chan d = s.chan d) ∧
        t.chan c = { s.chan c with org := true, oss := s.tick, so := true, phase := pIdle }) ∧
    ((s.chan c).so = true →
      (s.cfg.originTimeoutTicks < tickDiff s.cfg s.tick (s.chan c).oss ∨
        (s.cfg.originTimeoutTicks = 10000 ∧ s.cfg.tickW = 64 ∧
          s.tick = ((s.chan c).oss + 10001) % 2 ^ 64)) →
      ∃ t, exec (.chOrigin c) s = .next t ∧ exec (.orgExpire c) s = .next t ∧
        t = { s with chans := t.chans } ∧ (∀ d, d ≠ c → t.chan d = s.chan d) ∧
        t.chan c = { s.chan c with org := false, so := false, phase := pClrcoil }) ∧
    ((s.chan c).so = true →
      (tickDiff s.cfg s.tick (s.chan c).oss ≤ s.cfg.originTimeoutTicks ∨
        (s.cfg.originTimeoutTicks = 10000 ∧ s.cfg.tickW = 64 ∧
          s.tick = ((s.chan c).oss + 10000) % 2 ^ 64)) →
      ∃ t, exec (.chOrigin c) s = .next t ∧ exec (.orgWait c) s = .next t ∧
        t = { s with chans := t.chans } ∧ (∀ d, d ≠ c → t.chan d = s.chan d) ∧
        t.chan c = { s.chan c with phase := pIdle })

/-- `CH.CLRCOIL` (rule R127): the origin coil is false whatever it was, and no other element changes. -/
def Obligations.CoilClearClearsOnlyTheOriginCoil : Prop :=
  ∀ (c : Nat) (s : State), c < s.chans.length → s.cfg.coil c < s.cfg.n →
    s.cfg.coil c < s.table.coils.length →
    ∃ t, exec (.chClrcoil c) s = .next t ∧ t = { s with chans := t.chans, table := t.table } ∧
      t.table = { s.table with coils := t.table.coils } ∧
      t.table.coils[s.cfg.coil c]? = some false ∧
      (∀ i : Nat, i ≠ s.cfg.coil c → t.table.coils[i]? = s.table.coils[i]?) ∧
      t.chan c = { s.chan c with phase := pIdle } ∧
      ∀ d, d ≠ c → t.chan d = s.chan d

/-- A poll with the coil false during an actuation does nothing (rule R128): two steps from the request
to idle, nothing but `rq` and the request flag changed; and once the coil is written true again, the
next poll reaches the origin step with the old `oss[c]`, which expires at once when the hold time has
passed since the actuation began. The time passed is modulo `2^TICK_W`; with another width than the rules'
64 that is the model's reading (log entry 21). -/
def Obligations.ClearedCoilLeavesTheActuation : Prop :=
  ∀ (c : Nat) (s : State) (r : Bool), c < s.chans.length → s.cfg.coil c < s.cfg.n →
    s.table.coils[s.cfg.coil c]? = some r →
    (s.chan c).phase = pIdle → (s.chan c).ps = true → (s.chan c).so = true →
    ∃ t1 t2, exec (.chPoll c) s = .next t1 ∧ exec (.chRdcoil c) t1 = .next t2 ∧
      t2 = { s with chans := t2.chans } ∧ (∀ d, d ≠ c → t2.chan d = s.chan d) ∧
      (r = false →
        t2.chan c = { s.chan c with ps := false, rq := false, phase := pIdle }) ∧
      (r = true →
        t2.chan c = { s.chan c with ps := false, rq := true, phase := pOrigin } ∧
        (s.cfg.originTimeoutTicks < tickDiff s.cfg s.tick (s.chan c).oss →
          ∃ t3, exec (.chOrigin c) t2 = .next t3 ∧
            t3.chan c = { s.chan c with
              ps := false, rq := true, org := false, so := false, phase := pClrcoil }))

/-- The origin output falls only in an expiry step (rules R125, R130): in any step that is no reset,
a channel whose origin output goes from high to low was in `P_ORIGIN` with the hold time exceeded,
elapsed at least `ORIGIN_TIMEOUT_TICKS + 1`. The elapsed ticks are modulo `2^TICK_W`; with another width
than the rules' 64 that is the model's reading (log entry 21). -/
def Obligations.OriginOutputFallsOnlyAfterTheHold : Prop :=
  ∀ (s t : State) (c : Nat), ¬ s.choosesReset → step s = .next t →
    (s.chan c).org = true → (t.chan c).org = false →
    (s.chan c).phase = pOrigin ∧ (s.chan c).so = true ∧
      s.cfg.originTimeoutTicks + 1 ≤ tickDiff s.cfg s.tick (s.chan c).oss

/-! ## The measurement cycle -/

/-- `CH.MSTART` (rule R141). -/
def Obligations.MeasurementStartRaisesTheRequest : Prop :=
  ∀ (c : Nat) (s : State), c < s.chans.length →
    ∃ t, exec (.chMstart c) s = .next t ∧ t = { s with chans := t.chans } ∧
      t.chan c = { s.chan c with req := true, ni := 0, bi := 0, t0 := s.tick, phase := pWlow } ∧
      ∀ d, d ≠ c → t.chan d = s.chan d

/-- The low-phase wait (rules R142 to R145 and R152): the pin is tested first, so a high clock passes
whatever the elapsed time; a low clock times out exactly when more than `BIT_TIMEOUT_TICKS` ticks
have elapsed, and otherwise nothing changes. Each row and `CH.WLOW` agree. The elapsed ticks are modulo
`2^TICK_W`; with another width than the rules' 64 that is the model's reading (log entry 21). -/
def Obligations.LowPhaseWait : Prop :=
  ∀ (c : Nat) (s : State), c < s.chans.length →
    (pinReadClk s c = true →
      ∃ t, exec (.chWlow c) s = .next t ∧ exec (.wlowPass c) s = .next t ∧
        t = { s with chans := t.chans } ∧
        t.chan c = { s.chan c with t0 := s.tick, phase := pWhigh } ∧
        ∀ d, d ≠ c → t.chan d = s.chan d) ∧
    (pinReadClk s c = false →
      s.cfg.bitTimeoutTicks < tickDiff s.cfg s.tick (s.chan c).t0 →
      ∃ t, exec (.chWlow c) s = .next t ∧ exec (.wlowTimeout c) s = .next t ∧
        t = { s with chans := t.chans } ∧
        t.chan c = { s.chan c with res := resTimeout, phase := pIdle } ∧
        ∀ d, d ≠ c → t.chan d = s.chan d) ∧
    (pinReadClk s c = false →
      tickDiff s.cfg s.tick (s.chan c).t0 ≤ s.cfg.bitTimeoutTicks →
      exec (.chWlow c) s = .next s ∧ exec (.wlowStay c) s = .next s)

/-- The high-phase wait (rules R146 to R148 and R152): a low clock samples whatever the elapsed time;
a high clock times out exactly when more than `BIT_TIMEOUT_TICKS` ticks have elapsed, and otherwise
nothing changes. The elapsed ticks are modulo `2^TICK_W`; with another width than the rules' 64 that is the
model's reading (log entry 21). -/
def Obligations.HighPhaseWait : Prop :=
  ∀ (c : Nat) (s : State), c < s.chans.length →
    (pinReadClk s c = false → ∃ t, exec (.chWhigh c) s = .next t ∧
      exec (.whighSample c) s = .next t) ∧
    (pinReadClk s c = true →
      s.cfg.bitTimeoutTicks < tickDiff s.cfg s.tick (s.chan c).t0 →
      ∃ t, exec (.chWhigh c) s = .next t ∧ exec (.whighTimeout c) s = .next t ∧
        t = { s with chans := t.chans } ∧
        t.chan c = { s.chan c with res := resTimeout, phase := pIdle } ∧
        ∀ d, d ≠ c → t.chan d = s.chan d) ∧
    (pinReadClk s c = true →
      tickDiff s.cfg s.tick (s.chan c).t0 ≤ s.cfg.bitTimeoutTicks →
      exec (.chWhigh c) s = .next s ∧ exec (.whighStay c) s = .next s)

/-- `CH.WHIGH` (rules R146, R149 and R150). A low clock takes `WHIGH.SAMPLE`, as the row and as the step,
in its three cases: within a nibble, a nibble complete (the first one lowers the request), the frame
complete. A high clock takes the outcome of the row `WHIGH.TIMEOUT` or `WHIGH.STAY`. With 13 nibbles, `ni`
at most 12 and a tick of 64 bits this is what rule R146 says. The rest is the model's: with another `NNIB`
the last nibble's index is `NNIB - 1` and `ni` wraps in its four bits (log entry 12); with `ni` at `NNIB` or
above no entry is written and the phase is `P_DECODE` (log entry 17); with another `TICK_W` the elapsed ticks
of a high clock are modulo `2^TICK_W` (log entry 21). -/
def Obligations.SampleShiftsTheBitIn : Prop :=
  ∀ (c : Nat) (s : State) (a : Nibble), c < s.chans.length →
    (s.chan c).nib.length = s.cfg.nnib →
    a = (((s.chan c).acc >>> 1) ||| ((if pinReadDat s c then 1#4 else 0#4) <<< 3)) →
    (pinReadClk s c = false → ∃ t, exec (.whighSample c) s = .next t ∧ exec (.chWhigh c) s = .next t ∧
      t = { s with chans := t.chans } ∧ (∀ d, d ≠ c → t.chan d = s.chan d) ∧
      ((s.chan c).bi.toNat < 3 → t.chan c = { s.chan c with
        acc := a, t0 := s.tick, bi := (s.chan c).bi + 1, phase := pWlow }) ∧
      ((s.chan c).bi = 3 → (s.chan c).ni.toNat < s.cfg.nnib - 1 → t.chan c = { s.chan c with
        acc := a, t0 := s.tick, bi := 0, ni := (s.chan c).ni + 1, phase := pWlow,
        nib := (t.chan c).nib,
        req := if (s.chan c).ni = 0 then false else (s.chan c).req }) ∧
      ((s.chan c).bi = 3 → s.cfg.nnib - 1 ≤ (s.chan c).ni.toNat → t.chan c = { s.chan c with
        acc := a, t0 := s.tick, bi := 0, phase := pDecode, nib := (t.chan c).nib,
        req := if (s.chan c).ni = 0 then false else (s.chan c).req }) ∧
      ((s.chan c).bi = 3 → ∀ k : Nat, k < s.cfg.nnib → (t.chan c).nib[k]? =
        if k = (s.chan c).ni.toNat then some a else (s.chan c).nib[k]?)) ∧
    (pinReadClk s c = true → exec (.chWhigh c) s =
      if s.cfg.bitTimeoutTicks < tickDiff s.cfg s.tick (s.chan c).t0 then exec (.whighTimeout c) s
      else exec (.whighStay c) s)

/-- The assembly of a nibble (rule R83): four updates with bits `b0, b1, b2, b3` in order of arrival
leave `{b3, b2, b1, b0}`, whatever the accumulator held. -/
def Obligations.FourBitsMakeTheNibble : Prop :=
  ∀ (acc : Nibble) (b0 b1 b2 b3 : Bool),
    accumulate acc b0 = (acc >>> 1) ||| ((if b0 then 1#4 else 0#4) <<< 3) ∧
    (accumulate (accumulate (accumulate (accumulate acc b0) b1) b2) b3).toNat =
      b0.toNat + 2 * b1.toNat + 4 * b2.toNat + 8 * b3.toNat

/-- One clock pulse of the sensor takes one bit (rules R82, R108, R143, R146): from `P_WLOW` the five
events of `BIT c b` end in the sampled registers, with every other part of the machine unchanged but
the two pins of the channel. What a sample does with `NNIB` other than 13, or with `ni` at `NNIB` or
above, is the model's choice (log entries 12 and 17). -/
def Obligations.OneClockPulseTakesOneBit : Prop :=
  ∀ (s : State) (c : Nat) (b : Bool) (rest : List Item), s.accepted → c < s.chans.length →
    c < s.pinClk.length → c < s.pinDat.length → (s.chan c).phase = pWlow →
    s.script = scriptBit c b ++ rest →
    ∃ t, Sys2Proof.core.run 5 s = .next t ∧
      t = { s with
        script := rest, chans := t.chans, pinClk := s.pinClk.set c false,
        pinDat := s.pinDat.set c b } ∧
      t.chan c = sampleRegs s.cfg b s.tick (s.chan c) ∧ ∀ d, d ≠ c → t.chan d = s.chan d

/-- A whole frame on the wire fills the frame buffer (rules R81, R82, R108, R149, R150, R151): from the
start of a measurement the twenty events of each nibble of a frame of `NNIB` nibbles, the last one `a`,
end in `P_DECODE` with exactly those nibbles in the buffer and the request output low; nothing else of
the machine changes. With `NNIB` other than 13 it is the model's choice (log entry 12). -/
def Obligations.FrameOnTheWireFillsTheBuffer : Prop :=
  ∀ (s : State) (c : Nat) (g : List Nibble) (a : Nibble) (rest : List Item), s.accepted →
    c < s.chans.length → c < s.pinClk.length → c < s.pinDat.length →
    (g ++ [a]).length = s.cfg.nnib → s.cfg.nnib ≤ 16 → (s.chan c).nib.length = s.cfg.nnib →
    (s.chan c).phase = pWlow → (s.chan c).ni = 0 → (s.chan c).bi = 0 →
    s.script = scriptFrame c (g ++ [a]) ++ rest →
    ∃ t, Sys2Proof.core.run (20 * s.cfg.nnib) s = .next t ∧
      t = { s with
        script := rest, chans := t.chans, pinClk := s.pinClk.set c false,
        pinDat := s.pinDat.set c (a.getLsbD 3) } ∧
      t.chan c = { s.chan c with
        nib := g ++ [a], phase := pDecode, ni := BitVec.ofNat 4 g.length, bi := 0, req := false,
        acc := a, t0 := s.tick } ∧
      ∀ d, d ≠ c → t.chan d = s.chan d

/-- The row `FRAME` (rules R81, R108), with any start marker: the frame's thirteen nibbles, the four of
`START` first, are sent before the rest of the script, and nothing else changes. -/
def Obligations.FrameRowSendsItsNibbles : Prop :=
  ∀ (c : Nat) (start : BitVec 16) (sign d0 d1 d2 d3 d4 d5 dp rsv : Nibble) (s : State),
    exec (.frame c start sign d0 d1 d2 d3 d4 d5 dp rsv) s = .next { s with
      script := scriptFrame c
        [start.extractLsb' 12 4, start.extractLsb' 8 4, start.extractLsb' 4 4,
          start.extractLsb' 0 4, sign, d0, d1, d2, d3, d4, d5, dp, rsv] ++ s.script }

/-- A frame word with a bad start marker is received to its end and then found invalid (rules R104, R149
and R171): from the start of a measurement, the word, its 260 events and the channel's decode step end
the poll with `RES_INVALID_START`, the Register Table and the value unchanged. -/
def Obligations.FrameWithBadMarkerEndsInvalid : Prop :=
  ∀ (s : State) (c : Nat) (w : BitVec 52) (rest : List Item), s.accepted →
    c < s.chans.length → c < s.pinClk.length → c < s.pinDat.length →
    s.cfg.nnib = 13 → (s.chan c).nib.length = 13 →
    (s.chan c).phase = pWlow → (s.chan c).ni = 0 → (s.chan c).bi = 0 →
    w.extractLsb' 36 16 ≠ 0xFFFF → s.script = .frame c w :: .ev (.chan c) :: rest →
    ∃ t, Sys2Proof.core.run 262 s = .next t ∧ t.table = s.table ∧ t.script = rest ∧
      (t.chan c).res = resInvalidStart ∧ (t.chan c).phase = pIdle ∧
      (t.chan c).val = (s.chan c).val ∧ (t.chan c).req = false ∧
      ∀ d, d ≠ c → t.chan d = s.chan d

/-! ## Decode and write -/

/-- `DEC.INVALID` (rule R171), as the row and as what `CH.DECODE` does: one wrong nibble among the
first four is enough, and nothing but `res[c]` and the phase changes. -/
def Obligations.BadStartMarkerIsInvalid : Prop :=
  ∀ (c : Nat) (s : State) (n0 n1 n2 n3 : Nibble) (others : List Nibble), c < s.chans.length →
    (s.chan c).nib = n0 :: n1 :: n2 :: n3 :: others →
    (n0 ≠ 0xF ∨ n1 ≠ 0xF ∨ n2 ≠ 0xF ∨ n3 ≠ 0xF) →
    ∃ t, exec (.decInvalid c) s = .next t ∧ exec (.chDecode c) s = .next t ∧
      t = { s with chans := t.chans } ∧
      t.chan c = { s.chan c with res := resInvalidStart, phase := pIdle } ∧
      ∀ d, d ≠ c → t.chan d = s.chan d

/-- `DEC.OK` (rules R172, R174, R178), as the row and as what `CH.DECODE` does. -/
def Obligations.GoodFrameIsDecoded : Prop :=
  ∀ (c : Nat) (s : State) (sign d0 d1 d2 d3 d4 d5 dp : Nibble) (others : List Nibble),
    c < s.chans.length →
    (s.chan c).nib =
      0xF :: 0xF :: 0xF :: 0xF :: sign :: d0 :: d1 :: d2 :: d3 :: d4 :: d5 :: dp :: others →
    ∃ t, exec (.decOk c) s = .next t ∧ exec (.chDecode c) s = .next t ∧
      t = { s with chans := t.chans } ∧
      t.chan c = { s.chan c with
        val := f32OfRatio s.cfg.negZero (decide (sign = 0x8))
          (d0.toNat * 100000 + d1.toNat * 10000 + d2.toNat * 1000 + d3.toNat * 100 +
            d4.toNat * 10 + d5.toNat)
          (10 ^ dp.toNat),
        phase := pWrite } ∧
      ∀ d, d ≠ c → t.chan d = s.chan d

/-- The magnitude of a frame (rule R173): its formula over nibbles 5 to 10 and its bounds. -/
def Obligations.MagnitudeIsTheDigitSum : Prop :=
  ∀ (front : List Nibble) (d0 d1 d2 d3 d4 d5 : Nibble) (others nib : List Nibble),
    front.length = 5 → nib = front ++ d0 :: d1 :: d2 :: d3 :: d4 :: d5 :: others →
    frameMagnitude nib = d0.toNat * 100000 + d1.toNat * 10000 + d2.toNat * 1000 +
      d3.toNat * 100 + d4.toNat * 10 + d5.toNat ∧
    frameMagnitude nib ≤ 1666665 ∧ frameMagnitude nib < 2 ^ 21 ∧
    ((∀ d ∈ [d0, d1, d2, d3, d4, d5], d.toNat ≤ 9) → frameMagnitude nib ≤ 999999)


/-- The pattern of a non-zero decoded value is the nearest normal binary32 pattern to the exact ratio,
and of two equally near ones the one whose fraction is even (rule R177, decision D10), for every
magnitude and exponent a frame can hold. -/
def Obligations.RatioIsRoundedToNearestEven : Prop :=
  ∀ (negZero neg : Bool) (M p : Nat), 0 < M → M ≤ 1666665 → p ≤ 15 →
    ∀ (x : ℚ) (v : Pattern), x = (if neg then -1 else 1) * ((M : ℚ) / 10 ^ p) →
      v = f32OfRatio negZero neg M (10 ^ p) →
      normalPattern v ∧ ∀ w : Pattern, normalPattern w →
        |patternValue v - x| ≤ |patternValue w - x| ∧
        (|patternValue v - x| = |patternValue w - x| → w ≠ v → v.getLsbD 0 = false)

/-- The patterns the block produces (rules R90, R183): a zero magnitude gives a signed or plain zero,
and any other magnitude of a frame an exponent field from 77 to 147 with the frame's sign. -/
def Obligations.ProducedPatternsAreInRange : Prop :=
  ∀ (negZero neg : Bool) (M p : Nat), M ≤ 1666665 → p ≤ 15 →
    (M = 0 → f32OfRatio negZero neg M (10 ^ p) =
      if negZero && neg then 0x80000000#32 else 0x00000000#32) ∧
    (0 < M →
      77 ≤ patternExponent (f32OfRatio negZero neg M (10 ^ p)) ∧
      patternExponent (f32OfRatio negZero neg M (10 ^ p)) ≤ 147 ∧
      (f32OfRatio negZero neg M (10 ^ p)).getLsbD 31 = neg)

/-- Nibble 12 is ignored (rules R88, R175): two states that differ only in nibble 12 of the channel's
buffer decode to the same outcome and the same value. What a buffer without the entries that the decode reads
gives is the model's choice (log entry 12). -/
def Obligations.ReservedNibbleIsIgnored : Prop :=
  ∀ (c : Nat) (s : State) (x : Nibble), c < s.chans.length →
    ∃ t u, exec (.chDecode c) s = .next t ∧
      exec (.chDecode c) (s.updChan c fun r => { r with nib := r.nib.set 12 x }) = .next u ∧
      u = t.updChan c fun r => { r with nib := r.nib.set 12 x }

/-- `CH.WRITE` (rules R91, R180): both registers of the pair in the configured order, no other element,
and the end of the poll. -/
def Obligations.WriteStoresThePair : Prop :=
  ∀ (c : Nat) (s : State), c < s.chans.length → s.cfg.base c + 1 < s.cfg.n →
    s.cfg.base c + 1 < s.table.inputs.length →
    ∃ t, exec (.chWrite c) s = .next t ∧ t = { s with chans := t.chans, table := t.table } ∧
      t.table = { s.table with inputs := t.table.inputs } ∧
      (∀ i : Nat, t.table.inputs[i]? =
        if i = s.cfg.base c then
          some (if s.cfg.wordOrder = .mswFirst then (s.chan c).val.extractLsb' 16 16
            else (s.chan c).val.extractLsb' 0 16)
        else if i = s.cfg.base c + 1 then
          some (if s.cfg.wordOrder = .mswFirst then (s.chan c).val.extractLsb' 0 16
            else (s.chan c).val.extractLsb' 16 16)
        else s.table.inputs[i]?) ∧
      t.chan c = { s.chan c with res := resOk, phase := pIdle } ∧
      ∀ d, d ≠ c → t.chan d = s.chan d

/-- No torn pair (rules R71, R180, property 1 of `95_test_vectors.md` section 4): one host read that
covers a channel's pair, made before the write, delivers both old registers, and made after it, both
halves of the value written. -/
def Obligations.HostReadOfAPairIsNeverTorn : Prop :=
  ∀ (c : Nat) (s : State) (addr count b : Nat), b = s.cfg.base c → b + 1 < s.cfg.n →
    s.table.inputs.length = s.cfg.n → addr ≤ b → b + 2 ≤ addr + count →
    addr + count ≤ s.cfg.n →
    ∃ before t after, exec (.hRdi addr count) s = .next before ∧
      exec (.chWrite c) s = .next t ∧ exec (.hRdi addr count) t = .next after ∧
      before.hRdata[b - addr]? = s.table.inputs[b]? ∧
      before.hRdata[b + 1 - addr]? = s.table.inputs[b + 1]? ∧
      (s.cfg.wordOrder = .mswFirst →
        after.hRdata[b - addr]? = some ((s.chan c).val.extractLsb' 16 16) ∧
        after.hRdata[b + 1 - addr]? = some ((s.chan c).val.extractLsb' 0 16)) ∧
      (s.cfg.wordOrder = .lswFirst →
        after.hRdata[b - addr]? = some ((s.chan c).val.extractLsb' 0 16) ∧
        after.hRdata[b + 1 - addr]? = some ((s.chan c).val.extractLsb' 16 16))

/-! ## The host port -/

/-- The four reads (rules R193 to R197, R96): in range, `h_rdata[j]` for `j < count` is the element,
a bit zero-extended; the status is `HS_OK`, the command is answered, and nothing else but the counter
of free values changes, the Register Table not at all. -/
def Obligations.HostReadsDeliverTheElements : Prop :=
  ∀ (addr count : Nat) (s : State), s.table.shaped s.cfg → 1 ≤ count → addr + count ≤ s.cfg.n →
    ∃ c d h i, exec (.hRdc addr count) s = .next c ∧ exec (.hRdd addr count) s = .next d ∧
      exec (.hRdh addr count) s = .next h ∧ exec (.hRdi addr count) s = .next i ∧
      (∀ t ∈ [c, d, h, i], t = { s with
        hRdata := t.hRdata, hStatus := hsOk, hDone := true, hValid := t.hValid,
        free := t.free }) ∧
      ∀ j : Nat, j < count →
        c.hRdata[j]? = (s.table.coils[addr + j]?).map (fun b => if b then 1 else 0) ∧
        d.hRdata[j]? = (s.table.discrete[addr + j]?).map (fun b => if b then 1 else 0) ∧
        h.hRdata[j]? = s.table.holding[addr + j]? ∧
        i.hRdata[j]? = s.table.inputs[addr + j]?

/-- `H.WRC` (rule R198): in range, coil `addr + j` takes bit 0 of write data `j` (the model's form of a
coil's data, log entry 9), and no other element changes. That `h_rdata` keeps its value over a successful
write is the model's reading, log entry 15. -/
def Obligations.HostCoilWriteSetsTheCoils : Prop :=
  ∀ (addr count : Nat) (s : State), s.table.shaped s.cfg → s.hWdata.length = s.cfg.n →
    1 ≤ count → addr + count ≤ s.cfg.n →
    ∃ t, exec (.hWrc addr count) s = .next t ∧
      t = { s with table := t.table, hStatus := hsOk, hDone := true, hValid := t.hValid } ∧
      t.table = { s.table with coils := t.table.coils } ∧
      (∀ j : Nat, j < count →
        t.table.coils[addr + j]? = (s.hWdata[j]?).map (fun v => v.getLsbD 0)) ∧
      ∀ k : Nat, k < addr ∨ addr + count ≤ k → t.table.coils[k]? = s.table.coils[k]?

/-- `H.WRH` (rule R199): in range, holding register `addr + j` takes write data `j`, and no other
element changes. That `h_rdata` keeps its value over a successful write is the model's reading, log
entry 15. -/
def Obligations.HostHoldingWriteSetsTheRegisters : Prop :=
  ∀ (addr count : Nat) (s : State), s.table.shaped s.cfg → s.hWdata.length = s.cfg.n →
    1 ≤ count → addr + count ≤ s.cfg.n →
    ∃ t, exec (.hWrh addr count) s = .next t ∧
      t = { s with table := t.table, hStatus := hsOk, hDone := true, hValid := t.hValid } ∧
      t.table = { s.table with holding := t.table.holding } ∧
      (∀ j : Nat, j < count → t.table.holding[addr + j]? = s.hWdata[j]?) ∧
      ∀ k : Nat, k < addr ∨ addr + count ≤ k → t.table.holding[k]? = s.table.holding[k]?

/-- Bounds (rules R54, R191, R192, R246): each of the six commands with `count = 0` or running past the
last element fails whole with `HS_TABLE_ACCESS_FAILURE`; nothing is read or written. What `h_rdata`
holds then is any value. -/
def Obligations.OutOfRangeCommandFailsWhole : Prop :=
  ∀ (addr count : Nat) (s : State), (count = 0 ∨ s.cfg.n < addr + count) →
    ∀ i ∈ [Instr.hRdc addr count, .hRdd addr count, .hRdh addr count, .hRdi addr count,
        .hWrc addr count, .hWrh addr count],
      ∃ t, exec i s = .next t ∧ t = { s with
        hStatus := hsTableAccessFailure, hRdata := t.hRdata, hDone := true, hValid := t.hValid,
        free := t.free }

/-- The two illegal codes (rules R191, R200, R247): `UnsupportedCommand` whatever the bounds, and no
element is read or written. What `h_rdata` holds then is any value. -/
def Obligations.IllegalCommandsAreUnsupported : Prop :=
  ∀ (addr count : Nat) (s : State),
    ∃ t u, exec (.hIll5 addr count) s = .next t ∧ exec (.hIll7 addr count) s = .next u ∧
      t = { s with
        hStatus := hsUnsupported, hRdata := t.hRdata, hDone := true, hValid := t.hValid,
        free := t.free } ∧
      u = { s with
        hStatus := hsUnsupported, hRdata := u.hRdata, hDone := true, hValid := u.hValid,
        free := u.free }

/-- Read after write through the host port (rules R60, R196, R199): a write of holding registers, then
a read of the same range of the resulting state, delivers the written data. -/
def Obligations.WrittenHoldingRegistersReadBack : Prop :=
  ∀ (addr count : Nat) (s : State), s.table.shaped s.cfg → s.hWdata.length = s.cfg.n →
    1 ≤ count → addr + count ≤ s.cfg.n →
    ∃ t u, exec (.hWrh addr count) s = .next t ∧ exec (.hRdh addr count) t = .next u ∧
      u.hStatus = hsOk ∧ ∀ j : Nat, j < count → u.hRdata[j]? = s.hWdata[j]?

/-- What the host port cannot reach (rules R204, R262): no command changes the tick, a channel, the
Sequencer, the latches, the configuration, the discrete inputs or the input registers; and its answer
does not depend on any of the first four, nor on any configuration constant but the table's size: two
states that agree on the Register Table, the write data and the counter of free values give the same
status, data and table. -/
def Obligations.HostReachesOnlyTheTable : Prop :=
  ∀ (addr count : Nat) (i : Instr) (reads others : List Instr),
    reads = [.hRdc addr count, .hRdd addr count, .hRdh addr count, .hRdi addr count] →
    others = [.hWrc addr count, .hIll5 addr count, .hWrh addr count, .hIll7 addr count] →
    i ∈ reads ++ others →
    ∀ s1 s2 : State, s1.cfg.n = s2.cfg.n → s1.table = s2.table → s1.hWdata = s2.hWdata →
      s1.free = s2.free →
      ∃ t1 t2, exec i s1 = .next t1 ∧ exec i s2 = .next t2 ∧
        t1 = { s1 with
          table := t1.table, hStatus := t1.hStatus, hRdata := t1.hRdata, hDone := true,
          hValid := t1.hValid, free := t1.free } ∧
        t1.table.discrete = s1.table.discrete ∧ t1.table.inputs = s1.table.inputs ∧
        t1.table = t2.table ∧ t1.hStatus = t2.hStatus ∧
        (i ∈ reads → t1.hStatus = hsOk → ∀ j : Nat, j < count →
          t1.hRdata[j]? = t2.hRdata[j]?)

/-! ## Interrupt glue -/

/-- The timer event and its handler (rules R217, R220 and R27): the event sets the latch; the handler
adds one modulo `2^TICK_W` (with another width than 64, log entry 21) and clears it; a second event on a
set latch is lost. That the handler with a
clear latch, "no step", answers the same state is the model's form of it, log entry 3. -/
def Obligations.TimerHandlerCountsOneTick : Prop :=
  ∀ s : State,
    exec .tmrEvt s = .next { s with tmrIrqPend := true } ∧
    (s.tmrIrqPend = true → exec .tickInc s = .next
      { s with tick := (s.tick + 1) % 2 ^ s.cfg.tickW, tmrIrqPend := false }) ∧
    (s.tmrIrqPend = false → exec .tickInc s = .next s) ∧
    (∃ t1 t2 t3, exec .tmrEvt s = .next t1 ∧ exec .tmrEvt t1 = .next t2 ∧
      exec .tickInc t2 = .next t3 ∧ t3.tick = (s.tick + 1) % 2 ^ s.cfg.tickW ∧
      t3.tmrIrqPend = false)

/-- The adapter event and its handler (rules R221, R222). That the handler with a clear latch, "no step",
answers the same state is the model's form of it, log entry 3. -/
def Obligations.AdapterHandlerSetsTheFlag : Prop :=
  ∀ s : State,
    exec .adpEvt s = .next { s with adpIrqPend := true } ∧
    (s.adpIrqPend = true →
      exec .adpSet s = .next { s with adapterPending := true, adpIrqPend := false }) ∧
    (s.adpIrqPend = false → exec .adpSet s = .next s)

/-- The difference of two ticks (rule R219): an unsigned number of `TICK_W` bits, the one that gives `a`
when it is added to `b` modulo `2^TICK_W`, and the plain difference where no wrap lies between. With
another width than the rule's 64 it is the model's reading (log entry 21). -/
def Obligations.TickDifferenceIsModular : Prop :=
  ∀ (k : Config) (a b : Nat),
    tickDiff k a b < 2 ^ k.tickW ∧ (tickDiff k a b + b) % 2 ^ k.tickW = a % 2 ^ k.tickW ∧
    (b ≤ a → a - b < 2 ^ k.tickW → tickDiff k a b = a - b)

/-! ## The Sequencer -/

/-- `SEQ.SNAP`, `SEQ.ADPCLR` and `SEQ.NETADV` (rules R227 to R229): the snapshot, the flag cleared, the
wait for the network side. Two clauses are the model's: that the wait, no step, answers the same state
(log entry 3); and that the network side sees `net_adv_start` exactly in the slot `Q_NETADV`, its reading
of rule R229. -/
def Obligations.SequencerOpensTheIteration : Prop :=
  ∀ s : State, (netAdvStart s = true ↔ s.q = qNetadv) ∧
    exec .seqSnap s = .next { s with netNow := s.tick, q := qAdpclr } ∧
    exec .seqAdpclr s = .next { s with adapterPending := false, q := qNetadv } ∧
    (s.netAdvDone = true →
      exec .seqNetadv s = .next { s with qc := 0, qs := false, q := qCh }) ∧
    (s.netAdvDone = false → exec .seqNetadv s = .next s)

/-- `SEQ.CH` in `SERIAL` mode (rule R230): the request, the wait, the next channel, the host's slot; and no
step while its condition does not hold, which as the same next state is log entry 3. -/
def Obligations.SequencerPollsOneChannelAtATime : Prop :=
  ∀ s : State, s.cfg.seqMode = .serial →
    ((s.chan s.qc).phase = pIdle → (s.chan s.qc).ps = false → s.qs = false →
      exec .seqCh s = .next
        { s.updChan s.qc (fun x => { x with ps := true }) with qs := true }) ∧
    (s.qc + 1 < s.cfg.nch → (s.chan s.qc).phase = pIdle → (s.chan s.qc).ps = false →
      s.qs = true → exec .seqCh s = .next { s with qs := false, qc := s.qc + 1 }) ∧
    (s.cfg.nch ≤ s.qc + 1 → (s.chan s.qc).phase = pIdle → (s.chan s.qc).ps = false →
      s.qs = true → exec .seqCh s = .next { s with qs := false, q := qHost }) ∧
    ((s.chan s.qc).phase ≠ pIdle ∨ (s.chan s.qc).ps = true → exec .seqCh s = .next s)

/-- `SEQ.CH` in `CONCURRENT` mode (rule R232): all channels requested at once, all awaited, then the
host's slot; `qc` is not used. Two clauses are the model's: that no step answers the same state (log
entry 3), and the last, that the host's slot then only passes, its reading of "detached" (log
entry 10). -/
def Obligations.SequencerPollsAllChannelsInParallel : Prop :=
  ∀ s : State, s.cfg.seqMode = .concurrent →
    ((∀ x ∈ s.chans, x.phase = pIdle ∧ x.ps = false) → s.qs = false →
      exec .seqCh s = .next
        { s with chans := s.chans.map (fun x => { x with ps := true }), qs := true }) ∧
    ((∀ x ∈ s.chans, x.phase = pIdle ∧ x.ps = false) → s.qs = true →
      exec .seqCh s = .next { s with qs := false, q := qHost }) ∧
    ((∃ x ∈ s.chans, x.phase ≠ pIdle ∨ x.ps = true) → exec .seqCh s = .next s) ∧
    exec .seqHost s = .next { s with q := qSnap }

/-- `SEQ.HOST` (rule R231) in `SERIAL` mode: with no command presented the slot passes and nothing
else changes; a presented command is executed exactly as its own operation, `h_done` is 1, and the
slot passes. The word that names the operation has, with field widths other than 16, a layout of the
model's choice (log entry 24). -/
def Obligations.HostSlotServesTheCommand : Prop :=
  ∀ s : State, s.cfg.seqMode = .serial →
    (s.hValid = false → exec .seqHost s = .next { s with q := qSnap }) ∧
    (s.hValid = true → s.hAddr < 2 ^ s.cfg.addrW → s.hCount < 2 ^ s.cfg.countW →
      ∃ i t, decode s.cfg (.h (hostWord s.cfg s.hCmd s.hAddr s.hCount)) = .ok i ∧
        exec i s = .next t ∧ t.hDone = true ∧ exec .seqHost s = .next { t with q := qSnap })

/-! ## The format row that is no operation -/

/-- The row `VALUE` (rule R90) is refused by name: "data format of the stored value, not an
operation". -/
def Obligations.ValueFormatIsNoOperation : Prop :=
  ∀ (sgn : BitVec 1) (expo : BitVec 8) (frac : BitVec 23) (s : State),
    exec (.value sgn expo frac) s = .refused .notAnOperation

/-! ## Access rights of the agents, over every operation -/

/-- The access rights of a channel (rules R262, R248, R181): an operation of channel `c` changes only
that channel's registers, its origin coil (to false) and its pair of input registers; and only
`CH.CLRCOIL` and `CH.WRITE` touch the table at all. -/
def Obligations.ChannelAccessRights : Prop :=
  ∀ (i : Instr) (c : Nat) (s t : State), channelOf i = some c → exec i s = .next t →
    t = { s with chans := t.chans, table := t.table } ∧
    (∀ d, d ≠ c → t.chan d = s.chan d) ∧
    t.table.discrete = s.table.discrete ∧ t.table.holding = s.table.holding ∧
    (∀ k : Nat, t.table.coils[k]? = s.table.coils[k]? ∨
      (k = s.cfg.coil c ∧ t.table.coils[k]? = some false)) ∧
    (∀ k : Nat, k ≠ s.cfg.base c → k ≠ s.cfg.base c + 1 →
      t.table.inputs[k]? = s.table.inputs[k]?) ∧
    (t.table ≠ s.table → i = .chClrcoil c ∨ i = .chWrite c)

/-- No inter-channel signals (rule R267): in a valid configuration every operation of channel `c`
answers a next state, and what it does to the channel's registers and pair depends only on the
configuration, the tick, the channel's own registers, its pins and its origin coil. That an operation
whose condition does not hold (`CH.POLL` unrequested, an outcome row off its condition) answers a next
state, the same one, is the model's form of "no step", log entry 3. -/
def Obligations.ChannelsAreIsolated : Prop :=
  ∀ (i : Instr) (c : Nat) (s1 s2 : State), channelOf i = some c → s1.cfg.valid = true →
    c < s1.cfg.nch → s1.shaped → s2.shaped →
    s1.cfg = s2.cfg → s1.tick = s2.tick → s1.chan c = s2.chan c →
    pinReadClk s1 c = pinReadClk s2 c → pinReadDat s1 c = pinReadDat s2 c →
    s1.table.coils[s1.cfg.coil c]? = s2.table.coils[s1.cfg.coil c]? →
    ∃ t1 t2, exec i s1 = .next t1 ∧ exec i s2 = .next t2 ∧ t1.chan c = t2.chan c ∧
      t1.table.coils[s1.cfg.coil c]? = t2.table.coils[s1.cfg.coil c]? ∧
      (i = .chWrite c →
        t1.table.inputs[s1.cfg.base c]? = t2.table.inputs[s1.cfg.base c]? ∧
        t1.table.inputs[s1.cfg.base c + 1]? = t2.table.inputs[s1.cfg.base c + 1]?)

/-! ## Properties of every step -/

/-- The invariants of this section hold after reset, in every configuration with a channel, and the step
takes the reset state of every valid one (rules R6, R38, R39). -/
def Obligations.ResetMeetsTheInvariants : Prop :=
  State.reset.cfg.valid = true ∧
  ∀ k : Config, 0 < k.nch →
    (State.resetIn k).legal ∧ (State.resetIn k).serialExclusive ∧
    (State.resetIn k).sequencerStartsPolls ∧ (State.resetIn k).originOutputsAgree ∧
    (State.resetIn k).discreteZero ∧ (∀ c, ((State.resetIn k).chan c).pollConsistent k) ∧
    (State.resetIn k).shaped ∧ (k.valid = true → (State.resetIn k).accepted)

/-- Every step keeps the legal codes of rule R38: the phase and slot codes in use, `ni` the index of a
nibble, `qc` a channel, a request flag only while idle; and `h_status` a code in use (rule R243). With
`NNIB` other than 13 the bound `NNIB - 1` of `ni` is the model's choice (log entry 12). -/
def Obligations.EveryStepKeepsTheCodesLegal : Prop :=
  ∀ s t : State, s.legal → step s = .next t → t.legal

/-- Every step keeps the counts and widths that the configuration gives the state (rules R5, R20, R23,
R27, R31 and R32): so many channels, pins, elements and nibbles, counts within their bits. That a tick of
another width than 64 wraps at its width is the model's reading (log entry 21). -/
def Obligations.EveryStepKeepsTheShape : Prop :=
  ∀ s t : State, s.shaped → step s = .next t → t.shaped

/-- Every step keeps the exclusion of `SERIAL` mode (rules R38, R233): while the Sequencer alone starts
polls, at most one channel is busy or requested, and it is `qc` in slot `Q_CH`. -/
def Obligations.EveryStepKeepsChannelsExclusive : Prop :=
  ∀ s t : State, s.serialExclusive → s.sequencerStartsPolls → step s = .next t →
    t.serialExclusive ∧ t.sequencerStartsPolls

/-- Every step keeps `org[c] = so[c]` (property 4 of `95_test_vectors.md` section 4). -/
def Obligations.EveryStepKeepsOriginOutputsAgreeing : Prop :=
  ∀ s t : State, s.originOutputsAgree → step s = .next t → t.originOutputsAgree

/-- Every step keeps what a channel's registers say of its poll (rules R122, R131, R149, R150): no
measurement in a poll that read the coil set or during an actuation, the request output high exactly
during nibble 0, a decode only after the last nibble. The 4-bit `ni` must reach the last nibble's index
(rule R20); with `NNIB` other than 13 that index, `NNIB - 1`, is the model's choice (log entry 12). -/
def Obligations.EveryStepKeepsPollsConsistent : Prop :=
  ∀ s t : State, s.cfg.nnib ≤ 16 → s.legal → (∀ c, (s.chan c).pollConsistent s.cfg) →
    step s = .next t → ∀ c, (t.chan c).pollConsistent t.cfg

/-- No step writes a discrete input (rule R262, U7), so the space stays all zero; and no step changes
the configuration (rule R29). -/
def Obligations.DiscreteInputsAndConfigurationNeverChange : Prop :=
  ∀ s t : State, step s = .next t →
    t.cfg = s.cfg ∧ (s.discreteZero → t.discreteZero) ∧
      (¬ s.choosesReset → t.table.discrete = s.table.discrete)

/-- The tick is written only by its handler (rules R27, R62, R65): a step that is no reset leaves it
alone, or adds one modulo `2^TICK_W` (with another width than 64, log entry 21) with the latch set, which
it clears. -/
def Obligations.OnlyTheTimerHandlerMovesTheTick : Prop :=
  ∀ s t : State, ¬ s.choosesReset → step s = .next t →
    t.tick = s.tick ∨
      (s.tmrIrqPend = true ∧ t.tmrIrqPend = false ∧ t.tick = (s.tick + 1) % 2 ^ s.cfg.tickW)

/-- Input registers change only in a channel's write step (rules R181, R262): in a step that is no
reset, an input register whose value changes belongs to the pair of a channel that was in `P_WRITE`
and ends its poll with `RES_OK`. -/
def Obligations.OnlyAWriteStepChangesInputRegisters : Prop :=
  ∀ (s t : State) (k : Nat), ¬ s.choosesReset → step s = .next t →
    t.table.inputs[k]? ≠ s.table.inputs[k]? →
    ∃ c : Nat, (s.chan c).phase = pWrite ∧ (t.chan c).phase = pIdle ∧
      (t.chan c).res = resOk ∧ (k = s.cfg.base c ∨ k = s.cfg.base c + 1)
end

