-- ==== Sys2Proof/Laws/F32.lean ====
section
/-! SUPPORT. What the parts of `f32_of_ratio` (rule R177) compute: the exponent, the scaled quotient
and its rounding. -/

namespace Sys2Proof.Machine

/-- `bitlen` bounds its argument on both sides. -/
theorem bitlen_bounds (x : Nat) (h : 0 < x) : 2 ^ (bitlen x - 1) ≤ x ∧ x < 2 ^ bitlen x := by
  have hx : x ≠ 0 := by omega
  simp only [bitlen, hx, if_false, Nat.add_sub_cancel]
  exact ⟨Nat.log2_self_le hx, Nat.lt_log2_self⟩

theorem bitlen_pos (x : Nat) (h : 0 < x) : 1 ≤ bitlen x := by
  simp [bitlen, Nat.pos_iff_ne_zero.1 h]

/-- The exponent's comparison is the comparison of the ratio with `2^e`. -/
theorem f32_test_iff (M D : Nat) (e : Int) :
    ((0 ≤ e ∧ M < D * 2 ^ e.toNat) ∨ (e < 0 ∧ M * 2 ^ (-e).toNat < D)) ↔
      (M : ℚ) < D * (2 : ℚ) ^ e := by
  rcases le_or_gt 0 e with h | h
  · obtain ⟨n, rfl⟩ := Int.eq_ofNat_of_zero_le h
    simp only [Int.natCast_nonneg, true_and, Int.toNat_natCast, zpow_natCast]
    constructor
    · rintro (h1 | ⟨h1, _⟩)
      · exact_mod_cast h1
      · omega
    · intro h1
      exact .inl (by exact_mod_cast h1)
  · obtain ⟨n, hn⟩ := Int.eq_ofNat_of_zero_le (show 0 ≤ -e by omega)
    have he : e = -(n : Int) := by omega
    subst he
    have hp : (0 : ℚ) < 2 ^ n := by positivity
    simp only [neg_neg, Int.toNat_natCast, zpow_neg, zpow_natCast]
    rw [← div_eq_mul_inv, lt_div_iff₀ hp]
    constructor
    · rintro (⟨h1, _⟩ | ⟨_, h1⟩)
      · omega
      · exact_mod_cast h1
    · intro h1
      exact .inr ⟨by omega, by exact_mod_cast h1⟩

/-- "Now `2^e <= M/D < 2^(e+1)`" (rule R177). -/
theorem f32Exponent_spec (M D : Nat) (hM : 0 < M) (hD : 0 < D) :
    (D : ℚ) * (2 : ℚ) ^ f32Exponent M D ≤ M ∧ (M : ℚ) < D * (2 : ℚ) ^ (f32Exponent M D + 1) := by
  obtain ⟨hM1, hM2⟩ := bitlen_bounds M hM
  obtain ⟨hD1, hD2⟩ := bitlen_bounds D hD
  have bM := bitlen_pos M hM
  have bD := bitlen_pos D hD
  have qM1 : (2 : ℚ) ^ ((bitlen M : Int) - 1) ≤ M := by
    have : ((bitlen M : Int) - 1) = ((bitlen M - 1 : Nat) : Int) := by omega
    rw [this, zpow_natCast]; exact_mod_cast hM1
  have qM2 : (M : ℚ) < (2 : ℚ) ^ (bitlen M : Int) := by
    rw [zpow_natCast]; exact_mod_cast hM2
  have qD1 : (2 : ℚ) ^ ((bitlen D : Int) - 1) ≤ D := by
    have : ((bitlen D : Int) - 1) = ((bitlen D - 1 : Nat) : Int) := by omega
    rw [this, zpow_natCast]; exact_mod_cast hD1
  have qD2 : (D : ℚ) < (2 : ℚ) ^ (bitlen D : Int) := by
    rw [zpow_natCast]; exact_mod_cast hD2
  have two : (2 : ℚ) ≠ 0 := by norm_num
  have low : (D : ℚ) * (2 : ℚ) ^ ((bitlen M : Int) - bitlen D - 1) ≤ M := by
    calc (D : ℚ) * (2 : ℚ) ^ ((bitlen M : Int) - bitlen D - 1)
        ≤ (2 : ℚ) ^ (bitlen D : Int) * (2 : ℚ) ^ ((bitlen M : Int) - bitlen D - 1) := by
          gcongr
      _ = (2 : ℚ) ^ ((bitlen M : Int) - 1) := by rw [← zpow_add₀ two]; congr 1; omega
      _ ≤ M := qM1
  have high : (M : ℚ) < D * (2 : ℚ) ^ ((bitlen M : Int) - bitlen D + 1) := by
    calc (M : ℚ) < (2 : ℚ) ^ (bitlen M : Int) := qM2
      _ = (2 : ℚ) ^ ((bitlen D : Int) - 1) * (2 : ℚ) ^ ((bitlen M : Int) - bitlen D + 1) := by
          rw [← zpow_add₀ two]; congr 1; omega
      _ ≤ D * (2 : ℚ) ^ ((bitlen M : Int) - bitlen D + 1) := by gcongr
  have key := f32_test_iff M D ((bitlen M : Int) - bitlen D)
  simp only [f32Exponent]
  split
  · next h => exact ⟨low, by simpa using key.1 h⟩
  · next h => exact ⟨not_lt.1 fun h' => h (key.2 h'), high⟩

/-- The scaled quotient is the ratio times `2^(23 - e)`. -/
theorem f32_scaled (M D : Nat) (e : Int) (hD : 0 < D) :
    (f32Num M e : ℚ) / f32Den D e = (M : ℚ) / D * (2 : ℚ) ^ (23 - e) ∧ 0 < f32Den D e := by
  have hDq : (D : ℚ) ≠ 0 := by exact_mod_cast hD.ne'
  rcases le_or_gt 0 (23 - e) with h | h
  · obtain ⟨n, hn⟩ := Int.eq_ofNat_of_zero_le h
    simp only [f32Num, f32Den, hn, Int.natCast_nonneg, if_true, Int.toNat_natCast, zpow_natCast]
    refine ⟨?_, hD⟩
    push_cast; ring
  · obtain ⟨n, hn⟩ := Int.eq_ofNat_of_zero_le (show 0 ≤ -(23 - e) by omega)
    have he : 23 - e = -(n : Int) := by omega
    have hneg : ¬ (0 ≤ 23 - e) := by omega
    simp only [f32Num, f32Den, if_neg hneg]
    rw [hn, Int.toNat_natCast, he, zpow_neg, zpow_natCast]
    refine ⟨?_, by positivity⟩
    push_cast
    field_simp

/-- Rounding to nearest: the rounded quotient is within half a unit of the exact quotient. -/
theorem roundedQuotient_spec (num den : Nat) (h : 0 < den) :
    2 * num ≤ 2 * (roundedQuotient num den * den) + den ∧
      2 * (roundedQuotient num den * den) ≤ 2 * num + den := by
  have e := Nat.div_add_mod num den
  have l := Nat.mod_lt num h
  rw [Nat.mul_comm] at e
  simp only [roundedQuotient]
  split
  · rw [Nat.add_mul]; omega
  · omega

end Sys2Proof.Machine
end

