-- ==== Sys2Proof/Laws/State.lean ====
section
/-! SUPPORT. One lemma per field for each named update of `State`, true by `rfl`, so that no proof
unfolds a record update. -/

namespace Sys2Proof.Machine

/-! ### `updChan` -/

@[simp] theorem updChan_cfg (s : State) (c : Nat) (f : Channel → Channel) : (s.updChan c f).cfg = s.cfg := rfl

@[simp] theorem updChan_tick (s : State) (c : Nat) (f : Channel → Channel) : (s.updChan c f).tick = s.tick := rfl

@[simp] theorem updChan_table (s : State) (c : Nat) (f : Channel → Channel) : (s.updChan c f).table = s.table := rfl

@[simp] theorem updChan_adapterPending (s : State) (c : Nat) (f : Channel → Channel) : (s.updChan c f).adapterPending = s.adapterPending := rfl

@[simp] theorem updChan_tmrIrqPend (s : State) (c : Nat) (f : Channel → Channel) : (s.updChan c f).tmrIrqPend = s.tmrIrqPend := rfl

@[simp] theorem updChan_adpIrqPend (s : State) (c : Nat) (f : Channel → Channel) : (s.updChan c f).adpIrqPend = s.adpIrqPend := rfl

@[simp] theorem updChan_chans (s : State) (c : Nat) (f : Channel → Channel) :
    (s.updChan c f).chans = s.chans.set c (f (s.chan c)) := rfl

@[simp] theorem updChan_q (s : State) (c : Nat) (f : Channel → Channel) : (s.updChan c f).q = s.q := rfl

@[simp] theorem updChan_qc (s : State) (c : Nat) (f : Channel → Channel) : (s.updChan c f).qc = s.qc := rfl

@[simp] theorem updChan_qs (s : State) (c : Nat) (f : Channel → Channel) : (s.updChan c f).qs = s.qs := rfl

@[simp] theorem updChan_netNow (s : State) (c : Nat) (f : Channel → Channel) : (s.updChan c f).netNow = s.netNow := rfl

@[simp] theorem updChan_hStatus (s : State) (c : Nat) (f : Channel → Channel) : (s.updChan c f).hStatus = s.hStatus := rfl

@[simp] theorem updChan_hRdata (s : State) (c : Nat) (f : Channel → Channel) : (s.updChan c f).hRdata = s.hRdata := rfl

@[simp] theorem updChan_hDone (s : State) (c : Nat) (f : Channel → Channel) : (s.updChan c f).hDone = s.hDone := rfl

@[simp] theorem updChan_hValid (s : State) (c : Nat) (f : Channel → Channel) : (s.updChan c f).hValid = s.hValid := rfl

@[simp] theorem updChan_hCmd (s : State) (c : Nat) (f : Channel → Channel) : (s.updChan c f).hCmd = s.hCmd := rfl

@[simp] theorem updChan_hAddr (s : State) (c : Nat) (f : Channel → Channel) : (s.updChan c f).hAddr = s.hAddr := rfl

@[simp] theorem updChan_hCount (s : State) (c : Nat) (f : Channel → Channel) : (s.updChan c f).hCount = s.hCount := rfl

@[simp] theorem updChan_hWdata (s : State) (c : Nat) (f : Channel → Channel) : (s.updChan c f).hWdata = s.hWdata := rfl

@[simp] theorem updChan_pinClk (s : State) (c : Nat) (f : Channel → Channel) : (s.updChan c f).pinClk = s.pinClk := rfl

@[simp] theorem updChan_pinDat (s : State) (c : Nat) (f : Channel → Channel) : (s.updChan c f).pinDat = s.pinDat := rfl

@[simp] theorem updChan_netAdvDone (s : State) (c : Nat) (f : Channel → Channel) : (s.updChan c f).netAdvDone = s.netAdvDone := rfl

@[simp] theorem updChan_script (s : State) (c : Nat) (f : Channel → Channel) : (s.updChan c f).script = s.script := rfl

@[simp] theorem updChan_free (s : State) (c : Nat) (f : Channel → Channel) : (s.updChan c f).free = s.free := rfl

/-! ### `setPhase` -/

@[simp] theorem setPhase_cfg (s : State) (c : Nat) (p : BitVec 4) : (s.setPhase c p).cfg = s.cfg := rfl

@[simp] theorem setPhase_tick (s : State) (c : Nat) (p : BitVec 4) : (s.setPhase c p).tick = s.tick := rfl

@[simp] theorem setPhase_table (s : State) (c : Nat) (p : BitVec 4) : (s.setPhase c p).table = s.table := rfl

@[simp] theorem setPhase_adapterPending (s : State) (c : Nat) (p : BitVec 4) : (s.setPhase c p).adapterPending = s.adapterPending := rfl

@[simp] theorem setPhase_tmrIrqPend (s : State) (c : Nat) (p : BitVec 4) : (s.setPhase c p).tmrIrqPend = s.tmrIrqPend := rfl

@[simp] theorem setPhase_adpIrqPend (s : State) (c : Nat) (p : BitVec 4) : (s.setPhase c p).adpIrqPend = s.adpIrqPend := rfl

@[simp] theorem setPhase_q (s : State) (c : Nat) (p : BitVec 4) : (s.setPhase c p).q = s.q := rfl

@[simp] theorem setPhase_qc (s : State) (c : Nat) (p : BitVec 4) : (s.setPhase c p).qc = s.qc := rfl

@[simp] theorem setPhase_qs (s : State) (c : Nat) (p : BitVec 4) : (s.setPhase c p).qs = s.qs := rfl

@[simp] theorem setPhase_netNow (s : State) (c : Nat) (p : BitVec 4) : (s.setPhase c p).netNow = s.netNow := rfl

@[simp] theorem setPhase_hStatus (s : State) (c : Nat) (p : BitVec 4) : (s.setPhase c p).hStatus = s.hStatus := rfl

@[simp] theorem setPhase_hRdata (s : State) (c : Nat) (p : BitVec 4) : (s.setPhase c p).hRdata = s.hRdata := rfl

@[simp] theorem setPhase_hDone (s : State) (c : Nat) (p : BitVec 4) : (s.setPhase c p).hDone = s.hDone := rfl

@[simp] theorem setPhase_hValid (s : State) (c : Nat) (p : BitVec 4) : (s.setPhase c p).hValid = s.hValid := rfl

@[simp] theorem setPhase_hCmd (s : State) (c : Nat) (p : BitVec 4) : (s.setPhase c p).hCmd = s.hCmd := rfl

@[simp] theorem setPhase_hAddr (s : State) (c : Nat) (p : BitVec 4) : (s.setPhase c p).hAddr = s.hAddr := rfl

@[simp] theorem setPhase_hCount (s : State) (c : Nat) (p : BitVec 4) : (s.setPhase c p).hCount = s.hCount := rfl

@[simp] theorem setPhase_hWdata (s : State) (c : Nat) (p : BitVec 4) : (s.setPhase c p).hWdata = s.hWdata := rfl

@[simp] theorem setPhase_pinClk (s : State) (c : Nat) (p : BitVec 4) : (s.setPhase c p).pinClk = s.pinClk := rfl

@[simp] theorem setPhase_pinDat (s : State) (c : Nat) (p : BitVec 4) : (s.setPhase c p).pinDat = s.pinDat := rfl

@[simp] theorem setPhase_netAdvDone (s : State) (c : Nat) (p : BitVec 4) : (s.setPhase c p).netAdvDone = s.netAdvDone := rfl

@[simp] theorem setPhase_script (s : State) (c : Nat) (p : BitVec 4) : (s.setPhase c p).script = s.script := rfl

@[simp] theorem setPhase_free (s : State) (c : Nat) (p : BitVec 4) : (s.setPhase c p).free = s.free := rfl

/-! ### `memWrite` -/

@[simp] theorem memWrite_cfg (s : State) (sp : Space) (i : Nat) (vs : List Word16) : (s.memWrite sp i vs).cfg = s.cfg := rfl

@[simp] theorem memWrite_tick (s : State) (sp : Space) (i : Nat) (vs : List Word16) : (s.memWrite sp i vs).tick = s.tick := rfl

@[simp] theorem memWrite_table (s : State) (sp : Space) (i : Nat) (vs : List Word16) :
    (s.memWrite sp i vs).table = s.table.memWrite sp i vs := rfl

@[simp] theorem memWrite_adapterPending (s : State) (sp : Space) (i : Nat) (vs : List Word16) : (s.memWrite sp i vs).adapterPending = s.adapterPending := rfl

@[simp] theorem memWrite_tmrIrqPend (s : State) (sp : Space) (i : Nat) (vs : List Word16) : (s.memWrite sp i vs).tmrIrqPend = s.tmrIrqPend := rfl

@[simp] theorem memWrite_adpIrqPend (s : State) (sp : Space) (i : Nat) (vs : List Word16) : (s.memWrite sp i vs).adpIrqPend = s.adpIrqPend := rfl

@[simp] theorem memWrite_chans (s : State) (sp : Space) (i : Nat) (vs : List Word16) : (s.memWrite sp i vs).chans = s.chans := rfl

@[simp] theorem memWrite_q (s : State) (sp : Space) (i : Nat) (vs : List Word16) : (s.memWrite sp i vs).q = s.q := rfl

@[simp] theorem memWrite_qc (s : State) (sp : Space) (i : Nat) (vs : List Word16) : (s.memWrite sp i vs).qc = s.qc := rfl

@[simp] theorem memWrite_qs (s : State) (sp : Space) (i : Nat) (vs : List Word16) : (s.memWrite sp i vs).qs = s.qs := rfl

@[simp] theorem memWrite_netNow (s : State) (sp : Space) (i : Nat) (vs : List Word16) : (s.memWrite sp i vs).netNow = s.netNow := rfl

@[simp] theorem memWrite_hStatus (s : State) (sp : Space) (i : Nat) (vs : List Word16) : (s.memWrite sp i vs).hStatus = s.hStatus := rfl

@[simp] theorem memWrite_hRdata (s : State) (sp : Space) (i : Nat) (vs : List Word16) : (s.memWrite sp i vs).hRdata = s.hRdata := rfl

@[simp] theorem memWrite_hDone (s : State) (sp : Space) (i : Nat) (vs : List Word16) : (s.memWrite sp i vs).hDone = s.hDone := rfl

@[simp] theorem memWrite_hValid (s : State) (sp : Space) (i : Nat) (vs : List Word16) : (s.memWrite sp i vs).hValid = s.hValid := rfl

@[simp] theorem memWrite_hCmd (s : State) (sp : Space) (i : Nat) (vs : List Word16) : (s.memWrite sp i vs).hCmd = s.hCmd := rfl

@[simp] theorem memWrite_hAddr (s : State) (sp : Space) (i : Nat) (vs : List Word16) : (s.memWrite sp i vs).hAddr = s.hAddr := rfl

@[simp] theorem memWrite_hCount (s : State) (sp : Space) (i : Nat) (vs : List Word16) : (s.memWrite sp i vs).hCount = s.hCount := rfl

@[simp] theorem memWrite_hWdata (s : State) (sp : Space) (i : Nat) (vs : List Word16) : (s.memWrite sp i vs).hWdata = s.hWdata := rfl

@[simp] theorem memWrite_pinClk (s : State) (sp : Space) (i : Nat) (vs : List Word16) : (s.memWrite sp i vs).pinClk = s.pinClk := rfl

@[simp] theorem memWrite_pinDat (s : State) (sp : Space) (i : Nat) (vs : List Word16) : (s.memWrite sp i vs).pinDat = s.pinDat := rfl

@[simp] theorem memWrite_netAdvDone (s : State) (sp : Space) (i : Nat) (vs : List Word16) : (s.memWrite sp i vs).netAdvDone = s.netAdvDone := rfl

@[simp] theorem memWrite_script (s : State) (sp : Space) (i : Nat) (vs : List Word16) : (s.memWrite sp i vs).script = s.script := rfl

@[simp] theorem memWrite_free (s : State) (sp : Space) (i : Nat) (vs : List Word16) : (s.memWrite sp i vs).free = s.free := rfl

/-! ### `setRdata` -/

@[simp] theorem setRdata_cfg (s : State) (f : Nat → Word16) : (s.setRdata f).cfg = s.cfg := rfl

@[simp] theorem setRdata_tick (s : State) (f : Nat → Word16) : (s.setRdata f).tick = s.tick := rfl

@[simp] theorem setRdata_table (s : State) (f : Nat → Word16) : (s.setRdata f).table = s.table := rfl

@[simp] theorem setRdata_adapterPending (s : State) (f : Nat → Word16) : (s.setRdata f).adapterPending = s.adapterPending := rfl

@[simp] theorem setRdata_tmrIrqPend (s : State) (f : Nat → Word16) : (s.setRdata f).tmrIrqPend = s.tmrIrqPend := rfl

@[simp] theorem setRdata_adpIrqPend (s : State) (f : Nat → Word16) : (s.setRdata f).adpIrqPend = s.adpIrqPend := rfl

@[simp] theorem setRdata_chans (s : State) (f : Nat → Word16) : (s.setRdata f).chans = s.chans := rfl

@[simp] theorem setRdata_q (s : State) (f : Nat → Word16) : (s.setRdata f).q = s.q := rfl

@[simp] theorem setRdata_qc (s : State) (f : Nat → Word16) : (s.setRdata f).qc = s.qc := rfl

@[simp] theorem setRdata_qs (s : State) (f : Nat → Word16) : (s.setRdata f).qs = s.qs := rfl

@[simp] theorem setRdata_netNow (s : State) (f : Nat → Word16) : (s.setRdata f).netNow = s.netNow := rfl

@[simp] theorem setRdata_hStatus (s : State) (f : Nat → Word16) : (s.setRdata f).hStatus = s.hStatus := rfl

@[simp] theorem setRdata_hRdata (s : State) (f : Nat → Word16) :
    (s.setRdata f).hRdata = (List.range s.cfg.n).map f := rfl

@[simp] theorem setRdata_hDone (s : State) (f : Nat → Word16) : (s.setRdata f).hDone = s.hDone := rfl

@[simp] theorem setRdata_hValid (s : State) (f : Nat → Word16) : (s.setRdata f).hValid = s.hValid := rfl

@[simp] theorem setRdata_hCmd (s : State) (f : Nat → Word16) : (s.setRdata f).hCmd = s.hCmd := rfl

@[simp] theorem setRdata_hAddr (s : State) (f : Nat → Word16) : (s.setRdata f).hAddr = s.hAddr := rfl

@[simp] theorem setRdata_hCount (s : State) (f : Nat → Word16) : (s.setRdata f).hCount = s.hCount := rfl

@[simp] theorem setRdata_hWdata (s : State) (f : Nat → Word16) : (s.setRdata f).hWdata = s.hWdata := rfl

@[simp] theorem setRdata_pinClk (s : State) (f : Nat → Word16) : (s.setRdata f).pinClk = s.pinClk := rfl

@[simp] theorem setRdata_pinDat (s : State) (f : Nat → Word16) : (s.setRdata f).pinDat = s.pinDat := rfl

@[simp] theorem setRdata_netAdvDone (s : State) (f : Nat → Word16) : (s.setRdata f).netAdvDone = s.netAdvDone := rfl

@[simp] theorem setRdata_script (s : State) (f : Nat → Word16) : (s.setRdata f).script = s.script := rfl

@[simp] theorem setRdata_free (s : State) (f : Nat → Word16) : (s.setRdata f).free = s.free := rfl

/-! ### `loseRdata` -/

@[simp] theorem loseRdata_cfg (s : State) : (s.loseRdata).cfg = s.cfg := rfl

@[simp] theorem loseRdata_tick (s : State) : (s.loseRdata).tick = s.tick := rfl

@[simp] theorem loseRdata_table (s : State) : (s.loseRdata).table = s.table := rfl

@[simp] theorem loseRdata_adapterPending (s : State) : (s.loseRdata).adapterPending = s.adapterPending := rfl

@[simp] theorem loseRdata_tmrIrqPend (s : State) : (s.loseRdata).tmrIrqPend = s.tmrIrqPend := rfl

@[simp] theorem loseRdata_adpIrqPend (s : State) : (s.loseRdata).adpIrqPend = s.adpIrqPend := rfl

@[simp] theorem loseRdata_chans (s : State) : (s.loseRdata).chans = s.chans := rfl

@[simp] theorem loseRdata_q (s : State) : (s.loseRdata).q = s.q := rfl

@[simp] theorem loseRdata_qc (s : State) : (s.loseRdata).qc = s.qc := rfl

@[simp] theorem loseRdata_qs (s : State) : (s.loseRdata).qs = s.qs := rfl

@[simp] theorem loseRdata_netNow (s : State) : (s.loseRdata).netNow = s.netNow := rfl

@[simp] theorem loseRdata_hStatus (s : State) : (s.loseRdata).hStatus = s.hStatus := rfl

@[simp] theorem loseRdata_hRdata (s : State) :
    (s.loseRdata).hRdata = (List.range s.cfg.n).map (Config.freeRdata s.free) := rfl

@[simp] theorem loseRdata_hDone (s : State) : (s.loseRdata).hDone = s.hDone := rfl

@[simp] theorem loseRdata_hValid (s : State) : (s.loseRdata).hValid = s.hValid := rfl

@[simp] theorem loseRdata_hCmd (s : State) : (s.loseRdata).hCmd = s.hCmd := rfl

@[simp] theorem loseRdata_hAddr (s : State) : (s.loseRdata).hAddr = s.hAddr := rfl

@[simp] theorem loseRdata_hCount (s : State) : (s.loseRdata).hCount = s.hCount := rfl

@[simp] theorem loseRdata_hWdata (s : State) : (s.loseRdata).hWdata = s.hWdata := rfl

@[simp] theorem loseRdata_pinClk (s : State) : (s.loseRdata).pinClk = s.pinClk := rfl

@[simp] theorem loseRdata_pinDat (s : State) : (s.loseRdata).pinDat = s.pinDat := rfl

@[simp] theorem loseRdata_netAdvDone (s : State) : (s.loseRdata).netAdvDone = s.netAdvDone := rfl

@[simp] theorem loseRdata_script (s : State) : (s.loseRdata).script = s.script := rfl

@[simp] theorem loseRdata_free (s : State) :
    (s.loseRdata).free = s.free + 1 := rfl

/-! ### `answered` -/

@[simp] theorem answered_cfg (s : State) : (s.answered).cfg = s.cfg := rfl

@[simp] theorem answered_tick (s : State) : (s.answered).tick = s.tick := rfl

@[simp] theorem answered_table (s : State) : (s.answered).table = s.table := rfl

@[simp] theorem answered_adapterPending (s : State) : (s.answered).adapterPending = s.adapterPending := rfl

@[simp] theorem answered_tmrIrqPend (s : State) : (s.answered).tmrIrqPend = s.tmrIrqPend := rfl

@[simp] theorem answered_adpIrqPend (s : State) : (s.answered).adpIrqPend = s.adpIrqPend := rfl

@[simp] theorem answered_chans (s : State) : (s.answered).chans = s.chans := rfl

@[simp] theorem answered_q (s : State) : (s.answered).q = s.q := rfl

@[simp] theorem answered_qc (s : State) : (s.answered).qc = s.qc := rfl

@[simp] theorem answered_qs (s : State) : (s.answered).qs = s.qs := rfl

@[simp] theorem answered_netNow (s : State) : (s.answered).netNow = s.netNow := rfl

@[simp] theorem answered_hStatus (s : State) : (s.answered).hStatus = s.hStatus := rfl

@[simp] theorem answered_hRdata (s : State) : (s.answered).hRdata = s.hRdata := rfl

@[simp] theorem answered_hDone (s : State) :
    (s.answered).hDone = true := rfl

@[simp] theorem answered_hValid (s : State) :
    (s.answered).hValid = false := rfl

@[simp] theorem answered_hCmd (s : State) : (s.answered).hCmd = s.hCmd := rfl

@[simp] theorem answered_hAddr (s : State) : (s.answered).hAddr = s.hAddr := rfl

@[simp] theorem answered_hCount (s : State) : (s.answered).hCount = s.hCount := rfl

@[simp] theorem answered_hWdata (s : State) : (s.answered).hWdata = s.hWdata := rfl

@[simp] theorem answered_pinClk (s : State) : (s.answered).pinClk = s.pinClk := rfl

@[simp] theorem answered_pinDat (s : State) : (s.answered).pinDat = s.pinDat := rfl

@[simp] theorem answered_netAdvDone (s : State) : (s.answered).netAdvDone = s.netAdvDone := rfl

@[simp] theorem answered_script (s : State) : (s.answered).script = s.script := rfl

@[simp] theorem answered_free (s : State) : (s.answered).free = s.free := rfl

/-! ### `driveClk` -/

@[simp] theorem driveClk_cfg (s : State) (c : Nat) (v : Bool) : (s.driveClk c v).cfg = s.cfg := rfl

@[simp] theorem driveClk_tick (s : State) (c : Nat) (v : Bool) : (s.driveClk c v).tick = s.tick := rfl

@[simp] theorem driveClk_table (s : State) (c : Nat) (v : Bool) : (s.driveClk c v).table = s.table := rfl

@[simp] theorem driveClk_adapterPending (s : State) (c : Nat) (v : Bool) : (s.driveClk c v).adapterPending = s.adapterPending := rfl

@[simp] theorem driveClk_tmrIrqPend (s : State) (c : Nat) (v : Bool) : (s.driveClk c v).tmrIrqPend = s.tmrIrqPend := rfl

@[simp] theorem driveClk_adpIrqPend (s : State) (c : Nat) (v : Bool) : (s.driveClk c v).adpIrqPend = s.adpIrqPend := rfl

@[simp] theorem driveClk_chans (s : State) (c : Nat) (v : Bool) : (s.driveClk c v).chans = s.chans := rfl

@[simp] theorem driveClk_q (s : State) (c : Nat) (v : Bool) : (s.driveClk c v).q = s.q := rfl

@[simp] theorem driveClk_qc (s : State) (c : Nat) (v : Bool) : (s.driveClk c v).qc = s.qc := rfl

@[simp] theorem driveClk_qs (s : State) (c : Nat) (v : Bool) : (s.driveClk c v).qs = s.qs := rfl

@[simp] theorem driveClk_netNow (s : State) (c : Nat) (v : Bool) : (s.driveClk c v).netNow = s.netNow := rfl

@[simp] theorem driveClk_hStatus (s : State) (c : Nat) (v : Bool) : (s.driveClk c v).hStatus = s.hStatus := rfl

@[simp] theorem driveClk_hRdata (s : State) (c : Nat) (v : Bool) : (s.driveClk c v).hRdata = s.hRdata := rfl

@[simp] theorem driveClk_hDone (s : State) (c : Nat) (v : Bool) : (s.driveClk c v).hDone = s.hDone := rfl

@[simp] theorem driveClk_hValid (s : State) (c : Nat) (v : Bool) : (s.driveClk c v).hValid = s.hValid := rfl

@[simp] theorem driveClk_hCmd (s : State) (c : Nat) (v : Bool) : (s.driveClk c v).hCmd = s.hCmd := rfl

@[simp] theorem driveClk_hAddr (s : State) (c : Nat) (v : Bool) : (s.driveClk c v).hAddr = s.hAddr := rfl

@[simp] theorem driveClk_hCount (s : State) (c : Nat) (v : Bool) : (s.driveClk c v).hCount = s.hCount := rfl

@[simp] theorem driveClk_hWdata (s : State) (c : Nat) (v : Bool) : (s.driveClk c v).hWdata = s.hWdata := rfl

@[simp] theorem driveClk_pinClk (s : State) (c : Nat) (v : Bool) :
    (s.driveClk c v).pinClk = s.pinClk.set c v := rfl

@[simp] theorem driveClk_pinDat (s : State) (c : Nat) (v : Bool) : (s.driveClk c v).pinDat = s.pinDat := rfl

@[simp] theorem driveClk_netAdvDone (s : State) (c : Nat) (v : Bool) : (s.driveClk c v).netAdvDone = s.netAdvDone := rfl

@[simp] theorem driveClk_script (s : State) (c : Nat) (v : Bool) : (s.driveClk c v).script = s.script := rfl

@[simp] theorem driveClk_free (s : State) (c : Nat) (v : Bool) : (s.driveClk c v).free = s.free := rfl

/-! ### `driveDat` -/

@[simp] theorem driveDat_cfg (s : State) (c : Nat) (v : Bool) : (s.driveDat c v).cfg = s.cfg := rfl

@[simp] theorem driveDat_tick (s : State) (c : Nat) (v : Bool) : (s.driveDat c v).tick = s.tick := rfl

@[simp] theorem driveDat_table (s : State) (c : Nat) (v : Bool) : (s.driveDat c v).table = s.table := rfl

@[simp] theorem driveDat_adapterPending (s : State) (c : Nat) (v : Bool) : (s.driveDat c v).adapterPending = s.adapterPending := rfl

@[simp] theorem driveDat_tmrIrqPend (s : State) (c : Nat) (v : Bool) : (s.driveDat c v).tmrIrqPend = s.tmrIrqPend := rfl

@[simp] theorem driveDat_adpIrqPend (s : State) (c : Nat) (v : Bool) : (s.driveDat c v).adpIrqPend = s.adpIrqPend := rfl

@[simp] theorem driveDat_chans (s : State) (c : Nat) (v : Bool) : (s.driveDat c v).chans = s.chans := rfl

@[simp] theorem driveDat_q (s : State) (c : Nat) (v : Bool) : (s.driveDat c v).q = s.q := rfl

@[simp] theorem driveDat_qc (s : State) (c : Nat) (v : Bool) : (s.driveDat c v).qc = s.qc := rfl

@[simp] theorem driveDat_qs (s : State) (c : Nat) (v : Bool) : (s.driveDat c v).qs = s.qs := rfl

@[simp] theorem driveDat_netNow (s : State) (c : Nat) (v : Bool) : (s.driveDat c v).netNow = s.netNow := rfl

@[simp] theorem driveDat_hStatus (s : State) (c : Nat) (v : Bool) : (s.driveDat c v).hStatus = s.hStatus := rfl

@[simp] theorem driveDat_hRdata (s : State) (c : Nat) (v : Bool) : (s.driveDat c v).hRdata = s.hRdata := rfl

@[simp] theorem driveDat_hDone (s : State) (c : Nat) (v : Bool) : (s.driveDat c v).hDone = s.hDone := rfl

@[simp] theorem driveDat_hValid (s : State) (c : Nat) (v : Bool) : (s.driveDat c v).hValid = s.hValid := rfl

@[simp] theorem driveDat_hCmd (s : State) (c : Nat) (v : Bool) : (s.driveDat c v).hCmd = s.hCmd := rfl

@[simp] theorem driveDat_hAddr (s : State) (c : Nat) (v : Bool) : (s.driveDat c v).hAddr = s.hAddr := rfl

@[simp] theorem driveDat_hCount (s : State) (c : Nat) (v : Bool) : (s.driveDat c v).hCount = s.hCount := rfl

@[simp] theorem driveDat_hWdata (s : State) (c : Nat) (v : Bool) : (s.driveDat c v).hWdata = s.hWdata := rfl

@[simp] theorem driveDat_pinClk (s : State) (c : Nat) (v : Bool) : (s.driveDat c v).pinClk = s.pinClk := rfl

@[simp] theorem driveDat_pinDat (s : State) (c : Nat) (v : Bool) :
    (s.driveDat c v).pinDat = s.pinDat.set c v := rfl

@[simp] theorem driveDat_netAdvDone (s : State) (c : Nat) (v : Bool) : (s.driveDat c v).netAdvDone = s.netAdvDone := rfl

@[simp] theorem driveDat_script (s : State) (c : Nat) (v : Bool) : (s.driveDat c v).script = s.script := rfl

@[simp] theorem driveDat_free (s : State) (c : Nat) (v : Bool) : (s.driveDat c v).free = s.free := rfl

/-! ### `requestAll` -/

@[simp] theorem requestAll_cfg (s : State) : (s.requestAll).cfg = s.cfg := rfl

@[simp] theorem requestAll_tick (s : State) : (s.requestAll).tick = s.tick := rfl

@[simp] theorem requestAll_table (s : State) : (s.requestAll).table = s.table := rfl

@[simp] theorem requestAll_adapterPending (s : State) : (s.requestAll).adapterPending = s.adapterPending := rfl

@[simp] theorem requestAll_tmrIrqPend (s : State) : (s.requestAll).tmrIrqPend = s.tmrIrqPend := rfl

@[simp] theorem requestAll_adpIrqPend (s : State) : (s.requestAll).adpIrqPend = s.adpIrqPend := rfl

@[simp] theorem requestAll_q (s : State) : (s.requestAll).q = s.q := rfl

@[simp] theorem requestAll_qc (s : State) : (s.requestAll).qc = s.qc := rfl

@[simp] theorem requestAll_qs (s : State) : (s.requestAll).qs = s.qs := rfl

@[simp] theorem requestAll_netNow (s : State) : (s.requestAll).netNow = s.netNow := rfl

@[simp] theorem requestAll_hStatus (s : State) : (s.requestAll).hStatus = s.hStatus := rfl

@[simp] theorem requestAll_hRdata (s : State) : (s.requestAll).hRdata = s.hRdata := rfl

@[simp] theorem requestAll_hDone (s : State) : (s.requestAll).hDone = s.hDone := rfl

@[simp] theorem requestAll_hValid (s : State) : (s.requestAll).hValid = s.hValid := rfl

@[simp] theorem requestAll_hCmd (s : State) : (s.requestAll).hCmd = s.hCmd := rfl

@[simp] theorem requestAll_hAddr (s : State) : (s.requestAll).hAddr = s.hAddr := rfl

@[simp] theorem requestAll_hCount (s : State) : (s.requestAll).hCount = s.hCount := rfl

@[simp] theorem requestAll_hWdata (s : State) : (s.requestAll).hWdata = s.hWdata := rfl

@[simp] theorem requestAll_pinClk (s : State) : (s.requestAll).pinClk = s.pinClk := rfl

@[simp] theorem requestAll_pinDat (s : State) : (s.requestAll).pinDat = s.pinDat := rfl

@[simp] theorem requestAll_netAdvDone (s : State) : (s.requestAll).netAdvDone = s.netAdvDone := rfl

@[simp] theorem requestAll_script (s : State) : (s.requestAll).script = s.script := rfl

@[simp] theorem requestAll_free (s : State) : (s.requestAll).free = s.free := rfl

@[simp] theorem requestAll_chans (s : State) :
    (s.requestAll).chans = s.chans.map fun x => { x with ps := true } := rfl

/-! ### `takeTimerInterrupt` -/

@[simp] theorem takeTimerInterrupt_cfg (s : State) : (takeTimerInterrupt s).cfg = s.cfg := rfl

@[simp] theorem takeTimerInterrupt_tick (s : State) :
    (takeTimerInterrupt s).tick = (s.tick + 1) % 2 ^ s.cfg.tickW := rfl

@[simp] theorem takeTimerInterrupt_table (s : State) : (takeTimerInterrupt s).table = s.table := rfl

@[simp] theorem takeTimerInterrupt_adapterPending (s : State) : (takeTimerInterrupt s).adapterPending = s.adapterPending := rfl

@[simp] theorem takeTimerInterrupt_tmrIrqPend (s : State) :
    (takeTimerInterrupt s).tmrIrqPend = false := rfl

@[simp] theorem takeTimerInterrupt_adpIrqPend (s : State) : (takeTimerInterrupt s).adpIrqPend = s.adpIrqPend := rfl

@[simp] theorem takeTimerInterrupt_chans (s : State) : (takeTimerInterrupt s).chans = s.chans := rfl

@[simp] theorem takeTimerInterrupt_q (s : State) : (takeTimerInterrupt s).q = s.q := rfl

@[simp] theorem takeTimerInterrupt_qc (s : State) : (takeTimerInterrupt s).qc = s.qc := rfl

@[simp] theorem takeTimerInterrupt_qs (s : State) : (takeTimerInterrupt s).qs = s.qs := rfl

@[simp] theorem takeTimerInterrupt_netNow (s : State) : (takeTimerInterrupt s).netNow = s.netNow := rfl

@[simp] theorem takeTimerInterrupt_hStatus (s : State) : (takeTimerInterrupt s).hStatus = s.hStatus := rfl

@[simp] theorem takeTimerInterrupt_hRdata (s : State) : (takeTimerInterrupt s).hRdata = s.hRdata := rfl

@[simp] theorem takeTimerInterrupt_hDone (s : State) : (takeTimerInterrupt s).hDone = s.hDone := rfl

@[simp] theorem takeTimerInterrupt_hValid (s : State) : (takeTimerInterrupt s).hValid = s.hValid := rfl

@[simp] theorem takeTimerInterrupt_hCmd (s : State) : (takeTimerInterrupt s).hCmd = s.hCmd := rfl

@[simp] theorem takeTimerInterrupt_hAddr (s : State) : (takeTimerInterrupt s).hAddr = s.hAddr := rfl

@[simp] theorem takeTimerInterrupt_hCount (s : State) : (takeTimerInterrupt s).hCount = s.hCount := rfl

@[simp] theorem takeTimerInterrupt_hWdata (s : State) : (takeTimerInterrupt s).hWdata = s.hWdata := rfl

@[simp] theorem takeTimerInterrupt_pinClk (s : State) : (takeTimerInterrupt s).pinClk = s.pinClk := rfl

@[simp] theorem takeTimerInterrupt_pinDat (s : State) : (takeTimerInterrupt s).pinDat = s.pinDat := rfl

@[simp] theorem takeTimerInterrupt_netAdvDone (s : State) : (takeTimerInterrupt s).netAdvDone = s.netAdvDone := rfl

@[simp] theorem takeTimerInterrupt_script (s : State) : (takeTimerInterrupt s).script = s.script := rfl

@[simp] theorem takeTimerInterrupt_free (s : State) : (takeTimerInterrupt s).free = s.free := rfl

/-! ### `takeAdapterInterrupt` -/

@[simp] theorem takeAdapterInterrupt_cfg (s : State) : (takeAdapterInterrupt s).cfg = s.cfg := rfl

@[simp] theorem takeAdapterInterrupt_tick (s : State) : (takeAdapterInterrupt s).tick = s.tick := rfl

@[simp] theorem takeAdapterInterrupt_table (s : State) : (takeAdapterInterrupt s).table = s.table := rfl

@[simp] theorem takeAdapterInterrupt_adapterPending (s : State) :
    (takeAdapterInterrupt s).adapterPending = true := rfl

@[simp] theorem takeAdapterInterrupt_tmrIrqPend (s : State) : (takeAdapterInterrupt s).tmrIrqPend = s.tmrIrqPend := rfl

@[simp] theorem takeAdapterInterrupt_adpIrqPend (s : State) :
    (takeAdapterInterrupt s).adpIrqPend = false := rfl

@[simp] theorem takeAdapterInterrupt_chans (s : State) : (takeAdapterInterrupt s).chans = s.chans := rfl

@[simp] theorem takeAdapterInterrupt_q (s : State) : (takeAdapterInterrupt s).q = s.q := rfl

@[simp] theorem takeAdapterInterrupt_qc (s : State) : (takeAdapterInterrupt s).qc = s.qc := rfl

@[simp] theorem takeAdapterInterrupt_qs (s : State) : (takeAdapterInterrupt s).qs = s.qs := rfl

@[simp] theorem takeAdapterInterrupt_netNow (s : State) : (takeAdapterInterrupt s).netNow = s.netNow := rfl

@[simp] theorem takeAdapterInterrupt_hStatus (s : State) : (takeAdapterInterrupt s).hStatus = s.hStatus := rfl

@[simp] theorem takeAdapterInterrupt_hRdata (s : State) : (takeAdapterInterrupt s).hRdata = s.hRdata := rfl

@[simp] theorem takeAdapterInterrupt_hDone (s : State) : (takeAdapterInterrupt s).hDone = s.hDone := rfl

@[simp] theorem takeAdapterInterrupt_hValid (s : State) : (takeAdapterInterrupt s).hValid = s.hValid := rfl

@[simp] theorem takeAdapterInterrupt_hCmd (s : State) : (takeAdapterInterrupt s).hCmd = s.hCmd := rfl

@[simp] theorem takeAdapterInterrupt_hAddr (s : State) : (takeAdapterInterrupt s).hAddr = s.hAddr := rfl

@[simp] theorem takeAdapterInterrupt_hCount (s : State) : (takeAdapterInterrupt s).hCount = s.hCount := rfl

@[simp] theorem takeAdapterInterrupt_hWdata (s : State) : (takeAdapterInterrupt s).hWdata = s.hWdata := rfl

@[simp] theorem takeAdapterInterrupt_pinClk (s : State) : (takeAdapterInterrupt s).pinClk = s.pinClk := rfl

@[simp] theorem takeAdapterInterrupt_pinDat (s : State) : (takeAdapterInterrupt s).pinDat = s.pinDat := rfl

@[simp] theorem takeAdapterInterrupt_netAdvDone (s : State) : (takeAdapterInterrupt s).netAdvDone = s.netAdvDone := rfl

@[simp] theorem takeAdapterInterrupt_script (s : State) : (takeAdapterInterrupt s).script = s.script := rfl

@[simp] theorem takeAdapterInterrupt_free (s : State) : (takeAdapterInterrupt s).free = s.free := rfl

/-! ### The registers of a channel after an update -/

/-- The registers of a channel after an update of channel `c`; an index that names no channel is left. -/
theorem chan_updChan (s : State) (c d : Nat) (f : Channel → Channel) :
    (s.updChan c f).chan d = if d = c ∧ c < s.chans.length then f (s.chan c) else s.chan d := by
  by_cases h : d = c
  · subst h
    by_cases hl : d < s.chans.length
    · simp [State.chan, State.updChan, hl]
    · simp [State.chan, State.updChan, hl]
  · simp [State.chan, State.updChan, h, Ne.symm h]

@[simp] theorem chan_updChan_self (s : State) (c : Nat) (f : Channel → Channel)
    (h : c < s.chans.length) : (s.updChan c f).chan c = f (s.chan c) := by
  simp [chan_updChan, h]

@[simp] theorem chan_updChan_ne (s : State) (c d : Nat) (f : Channel → Channel) (h : d ≠ c) :
    (s.updChan c f).chan d = s.chan d := by
  simp [chan_updChan, h]

@[simp] theorem chan_setPhase_self (s : State) (c : Nat) (p : BitVec 4) (h : c < s.chans.length) :
    (s.setPhase c p).chan c = { s.chan c with phase := p } := by
  simp [State.setPhase, h]

@[simp] theorem chan_setPhase_ne (s : State) (c d : Nat) (p : BitVec 4) (h : d ≠ c) :
    (s.setPhase c p).chan d = s.chan d := by
  simp [State.setPhase, h]

/-- An index that names no channel reads as an idle, unrequested channel. -/
theorem chan_absent (s : State) (c : Nat) (h : s.chans.length ≤ c) :
    s.chan c = Channel.reset 0 := by
  simp [State.chan, h]

@[simp] theorem chan_requestAll (s : State) (c : Nat) (h : c < s.chans.length) :
    s.requestAll.chan c = { s.chan c with ps := true } := by
  simp [State.chan, State.requestAll, h]

/-- A channel that exists is a member of the list. -/
theorem chan_mem (s : State) (c : Nat) (h : c < s.chans.length) : s.chan c ∈ s.chans := by
  simp [State.chan, h]

/-- Two states with the same channels have the same registers of each channel. -/
theorem chan_congr (s t : State) (h : t.chans = s.chans) (c : Nat) : t.chan c = s.chan c := by
  simp [State.chan, h]

@[simp] theorem chan_memWrite (s : State) (sp : Space) (i : Nat) (vs : List Word16) (c : Nat) :
    (s.memWrite sp i vs).chan c = s.chan c := rfl

@[simp] theorem chan_answered (s : State) (c : Nat) : s.answered.chan c = s.chan c := rfl

@[simp] theorem chan_loseRdata (s : State) (c : Nat) : s.loseRdata.chan c = s.chan c := rfl

theorem chan_resetIn (k : Config) (c : Nat) (h : c < k.nch) :
    (State.resetIn k).chan c = Channel.reset k.nnib := by
  simp [State.chan, State.resetIn, h]

end Sys2Proof.Machine
end

