-- ==== Sys2Proof/Laws/Ops.lean ====
section
/-! SUPPORT. For each shared operation, once, what it can do: table accesses, failures, the host
port, the choice of the next operation. -/

namespace Sys2Proof.Machine

/-! ## The Register Table -/

/-- How many elements a space has: `N` of them in a table of the right shape. -/
def Table.size (t : Table) (sp : Space) : Nat :=
  match sp with
  | .coil => t.coils.length
  | .disc => t.discrete.length
  | .hold => t.holding.length
  | .ireg => t.inputs.length

/-- In a table of the right shape every space has `N` elements (rule R50). -/
theorem Table.shaped.size {k : Config} {t : Table} (h : t.shaped k) (sp : Space) :
    t.size sp = k.n := by
  obtain ⟨h1, h2, h3, h4⟩ := h
  cases sp <;> assumption

/-- What an element of a space holds after a value is written to it. -/
def storedElement (sp : Space) (v : Word16) : Word16 :=
  match sp with
  | .coil | .disc => bitElement (v.getLsbD 0)
  | .hold | .ireg => v

@[simp] theorem bitElement_getLsbD (b : Bool) : (bitElement b).getLsbD 0 = b := by
  cases b <;> decide

/-- Read after write of the same element. -/
theorem read_write_same (t : Table) (sp : Space) (i : Nat) (v : Word16) (h : i < t.size sp) :
    (t.write sp i v).read sp i = storedElement sp v := by
  cases sp <;> simp [Table.size] at h <;> simp [Table.read, Table.write, storedElement, h]

/-- A write keeps the number of elements of every space. -/
@[simp] theorem size_write (t : Table) (sp sq : Space) (i : Nat) (v : Word16) :
    (t.write sp i v).size sq = t.size sq := by
  cases sp <;> cases sq <;> simp [Table.size, Table.write]

/-- `MemWrite` keeps the number of elements of every space. -/
@[simp] theorem size_memWrite (t : Table) (sp sq : Space) (i : Nat) (vs : List Word16) :
    (t.memWrite sp i vs).size sq = t.size sq := by
  induction vs generalizing t i with
  | nil => rfl
  | cons v vs ih => rw [Table.memWrite, ih, size_write]

/-- `MemWrite` keeps the table's shape. -/
theorem Table.shaped.memWrite {k : Config} {t : Table} (h : t.shaped k) (sp : Space) (i : Nat)
    (vs : List Word16) : (t.memWrite sp i vs).shaped k :=
  ⟨(size_memWrite t sp .coil i vs).trans (h.size .coil),
    (size_memWrite t sp .disc i vs).trans (h.size .disc),
    (size_memWrite t sp .hold i vs).trans (h.size .hold),
    (size_memWrite t sp .ireg i vs).trans (h.size .ireg)⟩

/-- A write leaves every other element of its space alone. -/
theorem read_write_other (t : Table) (sp : Space) (i k : Nat) (v : Word16) (h : k ≠ i) :
    (t.write sp i v).read sp k = t.read sp k := by
  cases sp <;> simp [Table.read, Table.write, h.symm]

/-- A write leaves the other spaces alone. -/
theorem read_write_space (t : Table) (sp sq : Space) (i k : Nat) (v : Word16) (h : sq ≠ sp) :
    (t.write sp i v).read sq k = t.read sq k := by
  cases sp <;> cases sq <;> first | rfl | exact absurd rfl h

/-- `MemWrite` writes exactly the elements it names (rule R53). -/
theorem read_memWrite (t : Table) (sp : Space) (i : Nat) (vs : List Word16) (k : Nat)
    (hb : i + vs.length ≤ t.size sp) :
    (t.memWrite sp i vs).read sp k =
      if h : i ≤ k ∧ k - i < vs.length then storedElement sp vs[k - i] else t.read sp k := by
  induction vs generalizing t i with
  | nil => simp [Table.memWrite]
  | cons v vs ih =>
    rw [List.length_cons] at hb
    have hb' : i + 1 + vs.length ≤ (t.write sp i v).size sp := by rw [size_write]; omega
    have hi : i < t.size sp := by omega
    rw [Table.memWrite, ih (t.write sp i v) (i + 1) hb']
    rcases Nat.lt_trichotomy k i with hk | hk | hk
    · have h1 : ¬ (i + 1 ≤ k ∧ k - (i + 1) < vs.length) := by omega
      have h2 : ¬ (i ≤ k ∧ k - i < (v :: vs).length) := by omega
      rw [dif_neg h1, dif_neg h2, read_write_other _ _ _ _ _ (by omega)]
    · subst hk
      have h1 : ¬ (k + 1 ≤ k ∧ k - (k + 1) < vs.length) := by omega
      rw [dif_neg h1, read_write_same _ _ _ _ hi]
      simp
    · have e : k - i = (k - (i + 1)) + 1 := by omega
      by_cases h1 : k - (i + 1) < vs.length
      · rw [dif_pos ⟨by omega, h1⟩, dif_pos ⟨by omega, by simp; omega⟩]
        simp [e]
      · rw [dif_neg (by omega), dif_neg (by simp; omega), read_write_other _ _ _ _ _ (by omega)]

/-- `MemWrite` leaves the other spaces alone. -/
theorem read_memWrite_space (t : Table) (sp sq : Space) (i : Nat) (vs : List Word16) (k : Nat)
    (h : sq ≠ sp) : (t.memWrite sp i vs).read sq k = t.read sq k := by
  induction vs generalizing t i with
  | nil => rfl
  | cons v vs ih => rw [Table.memWrite, ih, read_write_space _ _ _ _ _ _ h]

/-- Only a write of coils changes the coils. -/
theorem memWrite_coils (t : Table) (sp : Space) (i : Nat) (vs : List Word16) (h : sp ≠ .coil) :
    (t.memWrite sp i vs).coils = t.coils := by
  induction vs generalizing t i with
  | nil => rfl
  | cons v vs ih => rw [Table.memWrite, ih]; cases sp <;> first | rfl | exact absurd rfl h

/-- Only a write of discrete inputs changes the discrete inputs. -/
theorem memWrite_discrete (t : Table) (sp : Space) (i : Nat) (vs : List Word16) (h : sp ≠ .disc) :
    (t.memWrite sp i vs).discrete = t.discrete := by
  induction vs generalizing t i with
  | nil => rfl
  | cons v vs ih => rw [Table.memWrite, ih]; cases sp <;> first | rfl | exact absurd rfl h

/-- Only a write of holding registers changes the holding registers. -/
theorem memWrite_holding (t : Table) (sp : Space) (i : Nat) (vs : List Word16) (h : sp ≠ .hold) :
    (t.memWrite sp i vs).holding = t.holding := by
  induction vs generalizing t i with
  | nil => rfl
  | cons v vs ih => rw [Table.memWrite, ih]; cases sp <;> first | rfl | exact absurd rfl h

/-- Only a write of input registers changes the input registers. -/
theorem memWrite_inputs (t : Table) (sp : Space) (i : Nat) (vs : List Word16) (h : sp ≠ .ireg) :
    (t.memWrite sp i vs).inputs = t.inputs := by
  induction vs generalizing t i with
  | nil => rfl
  | cons v vs ih => rw [Table.memWrite, ih]; cases sp <;> first | rfl | exact absurd rfl h

/-- `MemRead` answers the elements in order (rule R53). -/
theorem memRead_getElem (t : Table) (sp : Space) (i n j : Nat) (h : j < n) :
    (t.memRead sp i n)[j]? = some (t.read sp (i + j)) := by
  simp [Table.memRead, h]

/-- `inBounds` is the condition of rule R192. -/
theorem inBounds_iff (k : Config) (i n : Nat) : inBounds k i n = true ↔ 1 ≤ n ∧ i + n ≤ k.n := by
  simp [inBounds]

/-! ## Time -/

/-- The timeout test is strict (rule R152). -/
theorem timedOut_iff (k : Config) (now t0 : Nat) :
    timedOut k now t0 = true ↔ k.bitTimeoutTicks < tickDiff k now t0 := by
  simp [timedOut]

/-- The expiry test is strict (rule R123). -/
theorem originExpired_iff (k : Config) (now oss : Nat) :
    originExpired k now oss = true ↔ k.originTimeoutTicks < tickDiff k now oss := by
  simp [originExpired]

/-! ## Failures -/

/-- A channel failure writes `res[c]` and `phase[c]` and nothing else (rule R248). -/
theorem takeFailure_timeout (c : Nat) (s : State) :
    takeFailure (.timeout c) s =
      s.updChan c fun x => { x with res := resTimeout, phase := pIdle } := rfl

/-- A channel failure writes `res[c]` and `phase[c]` and nothing else (rule R248). -/
theorem takeFailure_invalidStart (c : Nat) (s : State) :
    takeFailure (.invalidStart c) s =
      s.updChan c fun x => { x with res := resInvalidStart, phase := pIdle } := rfl

/-- No failure touches the Register Table (rule R248). -/
@[simp] theorem takeFailure_table (f : Failure) (s : State) : (takeFailure f s).table = s.table := by
  cases f <;> rfl

/-- No failure touches the tick. -/
@[simp] theorem takeFailure_tick (f : Failure) (s : State) : (takeFailure f s).tick = s.tick := by
  cases f <;> rfl

/-- No failure touches the configuration. -/
@[simp] theorem takeFailure_cfg (f : Failure) (s : State) : (takeFailure f s).cfg = s.cfg := by
  cases f <;> rfl

/-- A host failure touches no channel. -/
@[simp] theorem takeFailure_tableAccess_chan (s : State) (c : Nat) :
    (takeFailure .tableAccess s).chan c = s.chan c := rfl

/-- A host failure touches no channel. -/
@[simp] theorem takeFailure_unsupported_chan (s : State) (c : Nat) :
    (takeFailure .unsupported s).chan c = s.chan c := rfl

/-! ## What an update keeps -/

/-- A property of every channel is kept by an update of one channel that keeps it there. -/
theorem forall_chan_updChan (s : State) (c : Nat) (f : Channel → Channel) (P : Channel → Prop)
    (h : ∀ d, P (s.chan d)) (hf : P (f (s.chan c))) (d : Nat) : P ((s.updChan c f).chan d) := by
  rw [chan_updChan]
  split
  · exact hf
  · exact h d

/-- After an update of one channel the list holds the old channels and the updated one. -/
theorem mem_updChan (s : State) (c : Nat) (f : Channel → Channel) (x : Channel)
    (h : x ∈ (s.updChan c f).chans) :
    x ∈ s.chans ∨ (c < s.chans.length ∧ x = f (s.chan c)) := by
  by_cases hc : c < s.chans.length
  · exact (List.mem_or_eq_of_mem_set h).imp_right fun e => ⟨hc, e⟩
  · rw [State.updChan, List.set_eq_of_length_le (Nat.le_of_not_lt hc)] at h
    exact .inl h

/-- An update of a channel that keeps its shape keeps the state's. -/
theorem State.shaped.updChan {s : State} (h : s.shaped) (c : Nat) (f : Channel → Channel)
    (hf : (s.chan c).shaped s.cfg → (f (s.chan c)).shaped s.cfg) : (s.updChan c f).shaped := by
  obtain ⟨ht, hn, hall, hrest⟩ := h
  refine ⟨ht, by simpa [State.updChan] using hn, fun x hx => ?_, hrest⟩
  rcases mem_updChan s c f x hx with hx | ⟨hc, rfl⟩
  · exact hall x hx
  · exact hf (hall _ (chan_mem s c hc))

/-- A table access keeps the state's shape. -/
theorem State.shaped.memWrite {s : State} (h : s.shaped) (sp : Space) (i : Nat)
    (vs : List Word16) : (s.memWrite sp i vs).shaped :=
  ⟨h.1.memWrite sp i vs, h.2⟩

/-! ## The host port -/

/-- A command in range has its effect and `HS_OK`. -/
theorem hostAdmit_ok (addr count : Nat) (f : State → State) (s : State)
    (h : 1 ≤ count ∧ addr + count ≤ s.cfg.n) :
    hostAdmit addr count f s = { f s with hStatus := hsOk }.answered := by
  simp [hostAdmit, (inBounds_iff _ _ _).2 h]

/-- A command out of range fails whole. -/
theorem hostAdmit_fails (addr count : Nat) (f : State → State) (s : State)
    (h : count = 0 ∨ s.cfg.n < addr + count) :
    hostAdmit addr count f s = (takeFailure .tableAccess s).answered := by
  have hb : inBounds s.cfg addr count = false := by
    rw [← Bool.not_eq_true, inBounds_iff]; omega
  simp [hostAdmit, hb]

/-- A presented command waits on a free port. -/
theorem present_free (s : State) (word : Nat) (data : HostData) (h : s.hValid = false) :
    (s.present word data).hValid = true ∧ (s.present word data).hDone = false ∧
      (s.present word data).hWdata = s.drivenData data := by
  simp [State.present, h]

/-- Packing the fields of a word that fits its format gives the word (rule R93). -/
theorem hostWord_fields (k : Config) (word : Nat) (h : word < 2 ^ (3 + k.addrW + k.countW)) :
    hostWord k (hCmdOf k word) (hAddrOf k word) (hCountOf k word) = word := by
  have hc : word / 2 ^ (k.addrW + k.countW) < 8 := by
    rw [Nat.div_lt_iff_lt_mul (by positivity)]
    calc word < 2 ^ (3 + k.addrW + k.countW) := h
      _ = 8 * 2 ^ (k.addrW + k.countW) := by rw [Nat.add_assoc, Nat.pow_add]
  simp only [hostWord, hCmdOf, hAddrOf, hCountOf, BitVec.toNat_ofNat]
  rw [Nat.mod_eq_of_lt (show _ < 2 ^ 3 from hc), Nat.pow_add, Nat.mul_comm (2 ^ k.addrW),
    ← Nat.div_div_eq_div_mul, ← Nat.mul_assoc, Nat.mul_right_comm, ← Nat.add_mul,
    Nat.div_add_mod' (word / 2 ^ k.countW), Nat.div_add_mod']

/-- The fields of a packed word are its parts, where they fit their widths (rule R93). -/
theorem fields_hostWord (k : Config) (cmd : BitVec 3) (addr count : Nat) (ha : addr < 2 ^ k.addrW)
    (hn : count < 2 ^ k.countW) :
    hCmdOf k (hostWord k cmd addr count) = cmd ∧ hAddrOf k (hostWord k cmd addr count) = addr ∧
      hCountOf k (hostWord k cmd addr count) = count := by
  have e : hostWord k cmd addr count = (cmd.toNat * 2 ^ k.addrW + addr) * 2 ^ k.countW + count := by
    simp only [hostWord, Nat.pow_add]; ring
  have q : ((cmd.toNat * 2 ^ k.addrW + addr) * 2 ^ k.countW + count) / 2 ^ k.countW =
      cmd.toNat * 2 ^ k.addrW + addr := by
    rw [Nat.add_comm, Nat.add_mul_div_right _ _ (by positivity), Nat.div_eq_of_lt hn, Nat.zero_add]
  rw [e]
  refine ⟨?_, ?_, ?_⟩
  · apply BitVec.eq_of_toNat_eq
    rw [hCmdOf, Nat.add_comm k.addrW, Nat.pow_add, ← Nat.div_div_eq_div_mul, q, Nat.add_comm,
      Nat.add_mul_div_right _ _ (by positivity), Nat.div_eq_of_lt ha, Nat.zero_add]
    simp
  · rw [hAddrOf, q, Nat.add_comm, Nat.add_mul_mod_self_right, Nat.mod_eq_of_lt ha]
  · rw [hCountOf, Nat.add_comm, Nat.add_mul_mod_self_right, Nat.mod_eq_of_lt hn]

/-- The command on a freshly presented port is the word presented. -/
theorem portWord_present (s : State) (word : Nat) (data : HostData) (h : s.hValid = false)
    (hw : word < 2 ^ (3 + s.cfg.addrW + s.cfg.countW)) :
    (s.present word data).portWord = word := by
  simp only [State.present, h, State.portWord, Bool.false_eq_true, if_false]
  exact hostWord_fields s.cfg word hw

/-! ## The step -/

/-- A step in a state that it takes is the machine's next choice, carried out. -/
theorem step_accepted (s : State) (h : s.accepted) : step s = runSelected (select s) := by
  simp [step, runStep, h.1, h.2]

/-- A state that holds a reserved code is refused, whatever the schedule chooses (rule R104). -/
theorem step_reserved (s : State) (r : Refusal) (hv : s.cfg.valid = true)
    (h : s.reservedCode = some r) : step s = .refused r := by
  simp [step, runStep, hv, h]

/-- An invalid configuration is refused (rule R6). -/
theorem step_invalid (s : State) (h : s.cfg.valid = false) :
    step s = .refused .invalidConfiguration := by
  simp [step, runStep, h]

/-- What a step that answers a next state is: in a state that it takes, either the operation of a code
that decodes, or a step of the environment or the test bench. -/
theorem step_next_cases (s t : State) (h : step s = .next t) :
    s.accepted ∧
      ((∃ k s1 i, select s = .operation k s1 ∧ decode s1.cfg k = .ok i ∧ exec i s1 = .next t) ∨
        select s = .done t) := by
  cases hv : s.cfg.valid with
  | false => rw [step_invalid s hv] at h; cases h
  | true =>
    cases hr : s.reservedCode with
    | some r => rw [step_reserved s r hv hr] at h; cases h
    | none =>
      refine ⟨⟨hv, hr⟩, ?_⟩
      rw [step_accepted s ⟨hv, hr⟩] at h
      cases hs : select s with
      | operation k s1 =>
        rw [hs] at h
        simp only [runSelected, runCode] at h
        cases hd : decode s1.cfg k with
        | ok i => rw [hd] at h; exact .inl ⟨k, s1, i, rfl, hd, h⟩
        | error e => rw [hd] at h; cases h
      | done s1 =>
        rw [hs] at h
        simp only [runSelected, Host.Outcome.next.injEq] at h
        exact .inr (by rw [h])
      | stop r => rw [hs] at h; cases h

/-- A state without a reserved code: every phase, the slot and the status are codes in use. -/
theorem reservedCode_none (s : State) :
    s.reservedCode = none ↔
      (∀ x ∈ s.chans, x.phase.toNat ≤ 8) ∧ s.q.toNat ≤ 4 ∧ s.hStatus ≠ 3 := by
  simp only [State.reservedCode]
  cases h : s.chans.find? (fun x => decide (8 < x.phase.toNat)) with
  | some x =>
    have hx := List.find?_some h
    have hm := List.mem_of_find?_eq_some h
    simp only [reduceCtorEq, false_iff, not_and]
    intro hall
    have := hall x hm
    simp only [decide_eq_true_eq] at hx
    omega
  | none =>
    rw [List.find?_eq_none] at h
    have hall : ∀ x ∈ s.chans, x.phase.toNat ≤ 8 := fun x hx => by
      have := h x hx
      simp only [decide_eq_true_eq] at this
      omega
    rw [eq_true hall, true_and]
    dsimp only
    split
    · next hq => simp only [reduceCtorEq, false_iff, not_and]; intro h4; omega
    · split <;> simp_all

/-- The choice with an entry in the script. -/
@[simp] theorem select_cons (s : State) (it : Item) (rest : List Item)
    (h : s.script = it :: rest) : select s = selectItem it { s with script := rest } := by
  simp [select, h]

/-- The free schedule's choice. -/
theorem select_nil (s : State) (h : s.script = []) :
    select s = selectEvent (Config.schedule s.free) { s with free := s.free + 1 } := by
  simp [select, h]

end Sys2Proof.Machine
end

