-- ==== Sys2Proof/Laws/PerInstr.lean ====
section
/-! SUPPORT. Laws stated per instruction, one lemma for each constructor of `Instr`. -/

namespace Sys2Proof.Laws.OutcomeSharesCode

/-- "An outcome of a step has its own row with the code of its step" (rule R106): an instruction and
the operation it is an outcome of have one code and one well-formedness in every configuration, and that
operation is no outcome itself. -/
def Statement (i : Instr) : Prop :=
  (∀ k : Config, encode k i.operation = encode k i ∧ i.operation.wf k = i.wf k) ∧
    i.operation.operation = i.operation

theorem chPoll (c : Nat) : Statement (.chPoll c) := ⟨fun _ => ⟨rfl, rfl⟩, rfl⟩

theorem chRdcoil (c : Nat) : Statement (.chRdcoil c) := ⟨fun _ => ⟨rfl, rfl⟩, rfl⟩

theorem chOrigin (c : Nat) : Statement (.chOrigin c) := ⟨fun _ => ⟨rfl, rfl⟩, rfl⟩

theorem orgStart (c : Nat) : Statement (.orgStart c) := ⟨fun _ => ⟨rfl, rfl⟩, rfl⟩

theorem orgExpire (c : Nat) : Statement (.orgExpire c) := ⟨fun _ => ⟨rfl, rfl⟩, rfl⟩

theorem orgWait (c : Nat) : Statement (.orgWait c) := ⟨fun _ => ⟨rfl, rfl⟩, rfl⟩

theorem chClrcoil (c : Nat) : Statement (.chClrcoil c) := ⟨fun _ => ⟨rfl, rfl⟩, rfl⟩

theorem chMstart (c : Nat) : Statement (.chMstart c) := ⟨fun _ => ⟨rfl, rfl⟩, rfl⟩

theorem chWlow (c : Nat) : Statement (.chWlow c) := ⟨fun _ => ⟨rfl, rfl⟩, rfl⟩

theorem wlowPass (c : Nat) : Statement (.wlowPass c) := ⟨fun _ => ⟨rfl, rfl⟩, rfl⟩

theorem wlowTimeout (c : Nat) : Statement (.wlowTimeout c) := ⟨fun _ => ⟨rfl, rfl⟩, rfl⟩

theorem wlowStay (c : Nat) : Statement (.wlowStay c) := ⟨fun _ => ⟨rfl, rfl⟩, rfl⟩

theorem chWhigh (c : Nat) : Statement (.chWhigh c) := ⟨fun _ => ⟨rfl, rfl⟩, rfl⟩

theorem whighSample (c : Nat) : Statement (.whighSample c) := ⟨fun _ => ⟨rfl, rfl⟩, rfl⟩

theorem whighTimeout (c : Nat) : Statement (.whighTimeout c) := ⟨fun _ => ⟨rfl, rfl⟩, rfl⟩

theorem whighStay (c : Nat) : Statement (.whighStay c) := ⟨fun _ => ⟨rfl, rfl⟩, rfl⟩

theorem chDecode (c : Nat) : Statement (.chDecode c) := ⟨fun _ => ⟨rfl, rfl⟩, rfl⟩

theorem decInvalid (c : Nat) : Statement (.decInvalid c) := ⟨fun _ => ⟨rfl, rfl⟩, rfl⟩

theorem decOk (c : Nat) : Statement (.decOk c) := ⟨fun _ => ⟨rfl, rfl⟩, rfl⟩

theorem chWrite (c : Nat) : Statement (.chWrite c) := ⟨fun _ => ⟨rfl, rfl⟩, rfl⟩

theorem hRdc (addr count : Nat) : Statement (.hRdc addr count) := ⟨fun _ => ⟨rfl, rfl⟩, rfl⟩

theorem hRdd (addr count : Nat) : Statement (.hRdd addr count) := ⟨fun _ => ⟨rfl, rfl⟩, rfl⟩

theorem hRdh (addr count : Nat) : Statement (.hRdh addr count) := ⟨fun _ => ⟨rfl, rfl⟩, rfl⟩

theorem hRdi (addr count : Nat) : Statement (.hRdi addr count) := ⟨fun _ => ⟨rfl, rfl⟩, rfl⟩

theorem hWrc (addr count : Nat) : Statement (.hWrc addr count) := ⟨fun _ => ⟨rfl, rfl⟩, rfl⟩

theorem hIll5 (addr count : Nat) : Statement (.hIll5 addr count) := ⟨fun _ => ⟨rfl, rfl⟩, rfl⟩

theorem hWrh (addr count : Nat) : Statement (.hWrh addr count) := ⟨fun _ => ⟨rfl, rfl⟩, rfl⟩

theorem hIll7 (addr count : Nat) : Statement (.hIll7 addr count) := ⟨fun _ => ⟨rfl, rfl⟩, rfl⟩

theorem tmrEvt : Statement (.tmrEvt) := ⟨fun _ => ⟨rfl, rfl⟩, rfl⟩

theorem tickInc : Statement (.tickInc) := ⟨fun _ => ⟨rfl, rfl⟩, rfl⟩

theorem adpEvt : Statement (.adpEvt) := ⟨fun _ => ⟨rfl, rfl⟩, rfl⟩

theorem adpSet : Statement (.adpSet) := ⟨fun _ => ⟨rfl, rfl⟩, rfl⟩

theorem seqSnap : Statement (.seqSnap) := ⟨fun _ => ⟨rfl, rfl⟩, rfl⟩

theorem seqAdpclr : Statement (.seqAdpclr) := ⟨fun _ => ⟨rfl, rfl⟩, rfl⟩

theorem seqNetadv : Statement (.seqNetadv) := ⟨fun _ => ⟨rfl, rfl⟩, rfl⟩

theorem seqCh : Statement (.seqCh) := ⟨fun _ => ⟨rfl, rfl⟩, rfl⟩

theorem seqHost : Statement (.seqHost) := ⟨fun _ => ⟨rfl, rfl⟩, rfl⟩

theorem frame (c : Nat) (start : BitVec 16) (sign d0 d1 d2 d3 d4 d5 dp rsv : Nibble) : Statement (.frame c start sign d0 d1 d2 d3 d4 d5 dp rsv) := ⟨fun _ => ⟨rfl, rfl⟩, rfl⟩

theorem value (sgn : BitVec 1) (expo : BitVec 8) (frac : BitVec 23) : Statement (.value sgn expo frac) := ⟨fun _ => ⟨rfl, rfl⟩, rfl⟩

end Sys2Proof.Laws.OutcomeSharesCode
end

