-- ==== Sys2Proof/Laws/Step.lean ====
section
/-! SUPPORT. Once, what a step can choose and what a code can decode to, so that a proof about every
step never unfolds `select` or `decode`. -/

namespace Sys2Proof.Machine

/-- Two states agree on every element of the block (rule R20) and on the configuration; they may
differ in what the environment drives and in the model's own inputs. -/
structure BlockEq (s t : State) : Prop where
  cfg : t.cfg = s.cfg
  tick : t.tick = s.tick
  table : t.table = s.table
  adapterPending : t.adapterPending = s.adapterPending
  tmrIrqPend : t.tmrIrqPend = s.tmrIrqPend
  adpIrqPend : t.adpIrqPend = s.adpIrqPend
  chans : t.chans = s.chans
  q : t.q = s.q
  qc : t.qc = s.qc
  qs : t.qs = s.qs
  netNow : t.netNow = s.netNow
  hStatus : t.hStatus = s.hStatus
  hRdata : t.hRdata = s.hRdata

theorem BlockEq.chan {s t : State} (h : BlockEq s t) (c : Nat) : t.chan c = s.chan c :=
  chan_congr s t h.chans c

theorem BlockEq.trans {s t u : State} (h : BlockEq s t) (k : BlockEq t u) : BlockEq s u :=
  ⟨k.cfg.trans h.cfg, k.tick.trans h.tick, k.table.trans h.table,
    k.adapterPending.trans h.adapterPending, k.tmrIrqPend.trans h.tmrIrqPend,
    k.adpIrqPend.trans h.adpIrqPend, k.chans.trans h.chans, k.q.trans h.q, k.qc.trans h.qc,
    k.qs.trans h.qs, k.netNow.trans h.netNow, k.hStatus.trans h.hStatus, k.hRdata.trans h.hRdata⟩

/-- The model's own inputs and the environment's fields are no elements of the block. -/
theorem blockEq_inputs (s : State) (script : List Item) (free : Nat) :
    BlockEq s { s with script := script, free := free } :=
  ⟨rfl, rfl, rfl, rfl, rfl, rfl, rfl, rfl, rfl, rfl, rfl, rfl, rfl⟩

/-- Presenting a command changes no element of the block. -/
theorem blockEq_present (s : State) (word : Nat) (data : HostData) :
    BlockEq s (s.present word data) := by
  simp only [State.present]
  split <;> exact ⟨rfl, rfl, rfl, rfl, rfl, rfl, rfl, rfl, rfl, rfl, rfl, rfl, rfl⟩

/-- Where an operation's code comes from: a channel's phase register, the slot register, an event, a
host command, a frame or a value. -/
inductive CodeSource (s : State) : Code → Prop
  | chan (c : Nat) : CodeSource s (.s c (s.chan c).phase)
  | slot : CodeSource s (.q s.q)
  | glue (e : BitVec 2) : CodeSource s (.e e)
  | host (w : Nat) : CodeSource s (.h w)
  | frame (c : Nat) (w : BitVec 52) : CodeSource s (.f c w)
  | value (p : Pattern) : CodeSource s (.v p)

theorem selectEvent_operation (e : Event) (s s1 : State) (k : Code)
    (h : selectEvent e s = .operation k s1) : CodeSource s k ∧ s1 = s := by
  cases e with
  | host =>
    simp only [selectEvent] at h
    split at h
    · cases h; exact ⟨.host _, rfl⟩
    · cases h
  | chan c => cases h; exact ⟨.chan c, rfl⟩
  | seq => cases h; exact ⟨.slot, rfl⟩
  | glue e => cases h; exact ⟨.glue e, rfl⟩
  | _ => cases h

/-- An operation that a step chooses: its code comes from a register or a wire of the state, and the
state it runs in is the old one, as far as the block goes. -/
theorem select_operation (s s1 : State) (k : Code) (h : select s = .operation k s1) :
    CodeSource s k ∧ BlockEq s s1 := by
  cases hs : s.script with
  | nil =>
    rw [select_nil s hs] at h
    obtain ⟨a, rfl⟩ := selectEvent_operation _ _ _ _ h
    exact ⟨by cases a <;> constructor, blockEq_inputs s s.script (s.free + 1)⟩
  | cons it rest =>
    rw [select_cons s it rest hs] at h
    have b : BlockEq s { s with script := rest } := blockEq_inputs s rest s.free
    cases it with
    | ev e =>
      obtain ⟨a, rfl⟩ := selectEvent_operation _ _ _ _ h
      exact ⟨by cases a <;> constructor, b⟩
    | start c => simp only [selectItem, selectStart] at h; split at h <;> cases h
    | host w d =>
      simp only [selectItem, selectHost] at h
      split at h
      · cases h
      · split at h
        · cases h
          exact ⟨.host w, b.trans (blockEq_present _ w d)⟩
        · cases h
    | poll c => cases h
    | settle c => simp only [selectItem, selectSettle] at h; split at h <;> cases h
    | frame c w => cases h; exact ⟨.frame c w, b⟩
    | value p => cases h; exact ⟨.value p, b⟩

theorem selectEvent_done (e : Event) (s t : State) (h : selectEvent e s = .done t) :
    BlockEq s t ∨ (e = .rst ∧ t = s.applyReset) := by
  cases e with
  | host =>
    simp only [selectEvent] at h
    split at h
    · cases h
    · cases h; exact .inl ⟨rfl, rfl, rfl, rfl, rfl, rfl, rfl, rfl, rfl, rfl, rfl, rfl, rfl⟩
  | present w d => cases h; exact .inl (blockEq_present s w d)
  | clk c v => cases h; exact .inl ⟨rfl, rfl, rfl, rfl, rfl, rfl, rfl, rfl, rfl, rfl, rfl, rfl, rfl⟩
  | dat c v => cases h; exact .inl ⟨rfl, rfl, rfl, rfl, rfl, rfl, rfl, rfl, rfl, rfl, rfl, rfl, rfl⟩
  | netDone v => cases h; exact .inl ⟨rfl, rfl, rfl, rfl, rfl, rfl, rfl, rfl, rfl, rfl, rfl, rfl, rfl⟩
  | rst => cases h; exact .inr ⟨rfl, rfl⟩
  | chan c => cases h
  | seq => cases h
  | glue e => cases h

/-- A step that is no operation: it leaves the block alone, or it is the reset, or it is a `START` that
sets the request flag of a settled channel. -/
theorem select_done (s t : State) (h : select s = .done t) :
    BlockEq s t ∨
    (s.choosesReset ∧ ∃ s1, BlockEq s s1 ∧ t = s1.applyReset) ∨
    (∃ c rest, s.script = .start c :: rest ∧ settled s c = true ∧
      t = { s.updChan c (fun x => { x with ps := true }) with script := rest }) := by
  cases hs : s.script with
  | nil =>
    rw [select_nil s hs] at h
    rcases selectEvent_done _ _ _ h with a | ⟨a, rfl⟩
    · exact .inl ((blockEq_inputs s s.script (s.free + 1)).trans a)
    · exact .inr (.inl ⟨.inr ⟨hs, a⟩, { s with free := s.free + 1 },
        blockEq_inputs s s.script (s.free + 1), rfl⟩)
  | cons it rest =>
    rw [select_cons s it rest hs] at h
    have b : BlockEq s { s with script := rest } := blockEq_inputs s rest s.free
    cases it with
    | ev e =>
      rcases selectEvent_done _ _ _ h with a | ⟨a, rfl⟩
      · exact .inl (b.trans a)
      · subst a; exact .inr (.inl ⟨.inl ⟨rest, hs⟩, { s with script := rest }, b, rfl⟩)
    | start c =>
      simp only [selectItem, selectStart] at h
      split at h
      · next hc => cases h; exact .inr (.inr ⟨c, rest, rfl, hc, rfl⟩)
      · cases h
    | host w d =>
      simp only [selectItem, selectHost] at h
      split at h
      · cases h; exact .inl b
      · split at h
        · cases h
        · cases h; exact .inl (b.trans (blockEq_present _ w d))
    | poll c => cases h; exact .inl ⟨rfl, rfl, rfl, rfl, rfl, rfl, rfl, rfl, rfl, rfl, rfl, rfl, rfl⟩
    | settle c =>
      simp only [selectItem, selectSettle] at h
      split at h <;> cases h <;>
        exact .inl ⟨rfl, rfl, rfl, rfl, rfl, rfl, rfl, rfl, rfl, rfl, rfl, rfl, rfl⟩
    | frame c w => cases h
    | value p => cases h

/-- What a phase code decodes to (rule R100). -/
theorem decodeS_cases (k : Config) (c : Nat) (p : BitVec 4) (i : Instr) (h : decode k (.s c p) = .ok i) :
    (p = pIdle ∧ i = .chPoll c) ∨ (p = pRdcoil ∧ i = .chRdcoil c) ∨
    (p = pOrigin ∧ i = .chOrigin c) ∨ (p = pClrcoil ∧ i = .chClrcoil c) ∨
    (p = pMstart ∧ i = .chMstart c) ∨ (p = pWlow ∧ i = .chWlow c) ∨
    (p = pWhigh ∧ i = .chWhigh c) ∨ (p = pDecode ∧ i = .chDecode c) ∨
    (p = pWrite ∧ i = .chWrite c) := by
  simp only [decode, decodeS] at h
  split at h <;> cases h <;> simp_all [BitVec.toNat_eq]

/-- What a slot code decodes to (rule R101). -/
theorem decodeQ_cases (k : Config) (p : BitVec 3) (i : Instr) (h : decode k (.q p) = .ok i) :
    (p = qSnap ∧ i = .seqSnap) ∨ (p = qAdpclr ∧ i = .seqAdpclr) ∨
    (p = qNetadv ∧ i = .seqNetadv) ∨ (p = qCh ∧ i = .seqCh) ∨ (p = qHost ∧ i = .seqHost) := by
  simp only [decode, decodeQ] at h
  split at h <;> cases h <;> simp_all [BitVec.toNat_eq]

/-- What an event code decodes to (rule R102). -/
theorem decodeE_cases (k : Config) (e : BitVec 2) (i : Instr) (h : decode k (.e e) = .ok i) :
    i = .tmrEvt ∨ i = .tickInc ∨ i = .adpEvt ∨ i = .adpSet := by
  simp only [decode, decodeE] at h
  split at h <;> cases h <;> simp

/-- What a host command word decodes to (rule R94). -/
theorem decodeH_cases (k : Config) (w : Nat) (i : Instr) (h : decode k (.h w) = .ok i) :
    ∃ a n, i = .hRdc a n ∨ i = .hRdd a n ∨ i = .hRdh a n ∨ i = .hRdi a n ∨ i = .hWrc a n ∨
      i = .hIll5 a n ∨ i = .hWrh a n ∨ i = .hIll7 a n := by
  refine ⟨hAddrOf k w, hCountOf k w, ?_⟩
  simp only [decode, decodeH, Except.ok.injEq] at h
  subst h
  simp only [hostInstr]
  split <;> simp

/-- Whatever a host command does, only the table, the response and the port's own fields change, and of
the table neither the discrete inputs nor the input registers. -/
structure HostFrame (s t : State) : Prop where
  eq : t = { s with
    table := t.table, hStatus := t.hStatus, hRdata := t.hRdata, hDone := t.hDone,
    hValid := t.hValid, free := t.free }
  discrete : t.table.discrete = s.table.discrete
  inputs : t.table.inputs = s.table.inputs

theorem hostFrame_admit (a n : Nat) (f : State → State) (s : State)
    (h : HostFrame s (f s)) : HostFrame s (hostAdmit a n f s) := by
  simp only [hostAdmit]
  generalize f s = u at h
  split
  · refine ⟨?_, h.discrete, h.inputs⟩
    obtain ⟨e, -, -⟩ := h
    cases s; cases u; cases e; rfl
  · simp only [takeFailure, State.loseRdata, State.setRdata, State.answered]
    exact ⟨rfl, rfl, rfl⟩

theorem hostFrame_read (sp : Space) (a n : Nat) (s : State) :
    HostFrame s (hostRead sp a n s) := ⟨rfl, rfl, rfl⟩

theorem hostFrame_write (sp : Space) (a n : Nat) (s : State) (h1 : sp ≠ .disc)
    (h2 : sp ≠ .ireg) : HostFrame s (hostWrite sp a n s) :=
  ⟨rfl, memWrite_discrete _ _ _ _ h1, memWrite_inputs _ _ _ _ h2⟩

end Sys2Proof.Machine
end

