-- ==== Sys2Proof/Tests/Slice0.lean ====
section
/-! SUPPORT. The model's own tests. The expected results come from `95_test_vectors.md` (its vector is
named as `V<n>`) or are worked by hand from the rule named. The theorems `witness_...` show, for each
statement with hypotheses, concrete states and operands that meet them. -/

namespace Sys2Proof.Tests

open Sys2Proof Sys2Proof.Machine

/-- The outcome is a next state with the property `p`. -/
def onNext (o : Host.Outcome State Fault Refusal) (p : State → Bool) : Bool :=
  match o with
  | .next t => p t
  | .fault _ => false
  | .refused _ => false

theorem onNext_exists (o : Host.Outcome State Fault Refusal) (p : State → Bool)
    (h : onNext o p = true) : ∃ t, o = .next t ∧ p t = true := by
  cases o with
  | next t => exact ⟨t, rfl, h⟩
  | fault r => cases h
  | refused r => cases h

/-- Reset with channel 0's registers changed by `f`. -/
def st (f : Channel → Channel) : State := State.reset.updChan 0 f

/-- Reset with the first two coils as given. -/
def withCoils (a b : Bool) (s : State) : State :=
  { s with table := { s.table with coils := [a, b, false, false, false, false, false, false] } }

/-- Host write data of two elements. -/
def data2 (a b : Word16) : HostData := [a, b, 0, 0, 0, 0, 0, 0]

/-- The elements of a frame, nibble 0 first. -/
def nibs (word : BitVec 52) : List Nibble := (List.range 13).map (frameNibble word)

/-- The reference configuration in `CONCURRENT` mode. -/
def concurrent : Config := { Config.reference with seqMode := .concurrent }

/-! ## Well-formedness -/

/-- Rules R7 and R93: a channel index at the end and one past it, and a field of its width and one wider;
a frame with any start marker is well formed (rule R84). -/
theorem test_wf_instr :
    (Instr.chPoll 1).wf Config.reference = true ∧ (Instr.chPoll 2).wf Config.reference = false ∧
    (Instr.hRdc 65535 65535).wf Config.reference = true ∧
    (Instr.hRdc 65536 0).wf Config.reference = false ∧
    (Instr.hWrh 0 65536).wf Config.reference = false ∧
    (Instr.frame 0 0x7FFF 0 0 1 2 3 4 5 3 0).wf Config.reference = true ∧
    (Instr.frame 2 0xFFFF 0 0 1 2 3 4 5 3 0).wf Config.reference = false := by decide

/-- Rule R93: a code of a channel that is not there, and a word one bit too wide. -/
theorem test_wf_code :
    (Code.s 1 8).wf Config.reference = true ∧ (Code.s 2 8).wf Config.reference = false ∧
    (Code.h (2 ^ 35 - 1)).wf Config.reference = true ∧
    (Code.h (2 ^ 35)).wf Config.reference = false := by decide

/-- Rule R6: a coil index at the end of the table, one past it, and a shared coil. -/
theorem test_wf_config_coils :
    { Config.reference with originCoil := [0, 7] }.valid = true ∧
    { Config.reference with originCoil := [0, 8] }.valid = false ∧
    { Config.reference with originCoil := [1, 1] }.valid = false ∧
    { Config.reference with originCoil := [0] }.valid = false := by decide

/-- Rules R5 and R6: another build, of three channels and twelve elements. -/
theorem test_wf_config_build :
    { Config.reference with
      nch := 3, n := 12, originCoil := [11, 0, 5], iregBase := [10, 0, 4] }.valid = true ∧
    { Config.reference with
      nch := 3, n := 12, originCoil := [11, 0, 5], iregBase := [10, 0, 9] }.valid = false := by decide

/-- Rule R6: a pair at the end of the table, one past it, adjacent pairs and overlapping pairs. -/
theorem test_wf_config_pairs :
    { Config.reference with iregBase := [4, 6] }.valid = true ∧
    { Config.reference with iregBase := [0, 7] }.valid = false ∧
    { Config.reference with iregBase := [2, 0] }.valid = true ∧
    { Config.reference with iregBase := [0, 1] }.valid = false ∧
    { Config.reference with iregBase := [3, 3] }.valid = false := by decide

/-! ## Decode: words written out from the tables of the spec -/

/-- The S codes of rule R100, bit by bit; the code of channel 1 is the same four bits. -/
theorem test_decode_s :
    decode Config.reference (.s 0 0b0000) = .ok (.chPoll 0) ∧
    decode Config.reference (.s 1 0b0001) = .ok (.chRdcoil 1) ∧
    decode Config.reference (.s 0 0b0010) = .ok (.chOrigin 0) ∧
    decode Config.reference (.s 1 0b0011) = .ok (.chClrcoil 1) ∧
    decode Config.reference (.s 0 0b0100) = .ok (.chMstart 0) ∧
    decode Config.reference (.s 1 0b0101) = .ok (.chWlow 1) ∧
    decode Config.reference (.s 0 0b0110) = .ok (.chWhigh 0) ∧
    decode Config.reference (.s 1 0b0111) = .ok (.chDecode 1) ∧
    decode Config.reference (.s 0 0b1000) = .ok (.chWrite 0) ∧
    decode Config.reference (.s 0 0b1001) = .error (.reservedPhase 9) ∧
    decode Config.reference (.s 1 0b1111) = .error (.reservedPhase 15) := by decide

/-- The outcome rows have "the code of its step" (rule R106), so their words decode to the step. -/
theorem test_decode_outcomes :
    encode Config.reference (.orgStart 0) = .s 0 0b0010 ∧
    encode Config.reference (.orgExpire 0) = .s 0 0b0010 ∧
    encode Config.reference (.orgWait 0) = .s 0 0b0010 ∧
    encode Config.reference (.wlowPass 0) = .s 0 0b0101 ∧
    encode Config.reference (.wlowTimeout 0) = .s 0 0b0101 ∧
    encode Config.reference (.wlowStay 0) = .s 0 0b0101 ∧
    encode Config.reference (.whighSample 0) = .s 0 0b0110 ∧
    encode Config.reference (.whighTimeout 0) = .s 0 0b0110 ∧
    encode Config.reference (.whighStay 0) = .s 0 0b0110 ∧
    encode Config.reference (.decInvalid 0) = .s 0 0b0111 ∧
    encode Config.reference (.decOk 0) = .s 0 0b0111 := by decide

/-- The Q codes of rule R101 and the E codes of rule R102. -/
theorem test_decode_q_e :
    decode Config.reference (.q 0b000) = .ok .seqSnap ∧
    decode Config.reference (.q 0b001) = .ok .seqAdpclr ∧
    decode Config.reference (.q 0b010) = .ok .seqNetadv ∧
    decode Config.reference (.q 0b011) = .ok .seqCh ∧
    decode Config.reference (.q 0b100) = .ok .seqHost ∧
    decode Config.reference (.q 0b101) = .error (.reservedSlot 5) ∧
    decode Config.reference (.q 0b111) = .error (.reservedSlot 7) ∧
    decode Config.reference (.e 0b00) = .ok .tmrEvt ∧
    decode Config.reference (.e 0b01) = .ok .tickInc ∧
    decode Config.reference (.e 0b10) = .ok .adpEvt ∧
    decode Config.reference (.e 0b11) = .ok .adpSet := by decide

/-- H words of section 2.4 of the vectors: V50, V63, V55, V51, V61, V58, V56, V59. -/
theorem test_decode_h :
    decode Config.reference (.h 0x000000008) = .ok (.hRdc 0 8) ∧
    decode Config.reference (.h 0x100000008) = .ok (.hRdd 0 8) ∧
    decode Config.reference (.h 0x200070001) = .ok (.hRdh 7 1) ∧
    decode Config.reference (.h 0x300060003) = .ok (.hRdi 6 3) ∧
    decode Config.reference (.h 0x400000002) = .ok (.hWrc 0 2) ∧
    decode Config.reference (.h 0x500000001) = .ok (.hIll5 0 1) ∧
    decode Config.reference (.h 0x600070002) = .ok (.hWrh 7 2) ∧
    decode Config.reference (.h 0x700640000) = .ok (.hIll7 100 0) := by decide

/-- Rule R93 with other widths: 3 command bits above 8 of `addr` and 4 of `count`. -/
theorem test_decode_h_widths :
    decode { Config.reference with addrW := 8, countW := 4 } (.h 0b011_00000110_0011) =
      .ok (.hRdi 6 3) := by decide

/-- The frames of V31 and V48 (a bad marker is a frame, rule R104), and the pattern of V30 in its
fields (rule R90). -/
theorem test_decode_f_v :
    decode Config.reference (.f 1 0xFFFF800015021) = .ok (.frame 1 0xFFFF 8 0 0 0 1 5 0 2 1) ∧
    decode Config.reference (.f 0 0xFFEF001234530) = .ok (.frame 0 0xFFEF 0 0 1 2 3 4 5 3 0) ∧
    decode Config.reference (.v 0b01000001010001011000010100011111) =
      .ok (.value 0 0b10000010 0b10001011000010100011111) := by decide

/-- Table words as the host numbers them, the illegal ones refused. -/
theorem test_table_words :
    decodeTableWord 8 8 = some (.chWrite 0) ∧ decodeTableWord 8 9 = none ∧
    decodeTableWord 3 3 = some .seqCh ∧ decodeTableWord 2 1 = some .tickInc ∧
    decodeTableWord 40 0x300060003 = some (.hRdi 6 3) ∧
    decodeTableWord 56 0xFFFF001234530 = some (.frame 0 0xFFFF 0 0 1 2 3 4 5 3 0) ∧
    decodeTableWord 56 0x7FFF001234530 = some (.frame 0 0x7FFF 0 0 1 2 3 4 5 3 0) ∧
    decodeTableWord 56 0x10FFFF001234530 = none ∧
    decodeTableWord 32 0xBFC00000 = some (.value 1 127 0x400000) := by decide

/-! ## Reset and what a placed word runs -/

/-- `CH.MSTART` placed at reset is the next step's operation (rule R141). -/
theorem test_fetch_mstart :
    onNext (step (State.reset.withFetchWord 8 4)) (fun t =>
      (t.chan 0).req && (t.chan 0).phase == pWlow && !(t.chan 1).req) = true := by decide

/-- A slot code placed at reset (rule R228), and a host command (V55's write). -/
theorem test_fetch_others :
    onNext (step ({ State.reset with adapterPending := true }.withFetchWord 3 1)) (fun t =>
      !t.adapterPending && t.q == qNetadv) = true ∧
    onNext (step ({ State.reset with hWdata := data2 0x1234 0 }.withFetchWord 40 0x600070001))
      (fun t => t.table.holding[7]? == some 0x1234 && t.hStatus == hsOk && t.hDone) = true := by decide

/-- An invalid configuration is refused (rule R6). -/
theorem test_step_invalid_config :
    step { State.reset with cfg := { Config.reference with originCoil := [0, 8] } } =
      .refused .invalidConfiguration := by rfl

/-- A reserved code in any element is refused whichever agent is chosen (rules R104 and R243). -/
theorem test_step_reserved :
    step { State.reset.updChan 1 (fun x => { x with phase := 9 }) with script := [.ev .seq] } =
      .refused (.reservedPhase 9) ∧
    step { State.reset with q := 5, script := [.ev (.glue 0)] } = .refused (.reservedSlot 5) ∧
    step { State.reset with hStatus := 3, script := [.ev .rst] } = .refused .reservedStatus :=
  ⟨rfl, rfl, rfl⟩

/-! ## Poll and origin-set -/

/-- V1 and V5, `CH.POLL` then `CH.RDCOIL`'s two dispatches on a clear coil. -/
theorem test_poll_dispatch :
    onNext (exec (.chPoll 0) (st fun x => { x with ps := true })) (fun t =>
      !(t.chan 0).ps && (t.chan 0).phase == pRdcoil) = true ∧
    onNext (exec (.chRdcoil 0) State.reset) (fun t => (t.chan 0).phase == pMstart) = true ∧
    onNext (exec (.chRdcoil 0) (st fun x => { x with so := true })) (fun t =>
      (t.chan 0).phase == pIdle && !(t.chan 0).rq) = true ∧
    onNext (exec (.chRdcoil 1) (withCoils false true State.reset)) (fun t =>
      (t.chan 1).phase == pOrigin && (t.chan 1).rq) = true := by decide

/-- V2: `ORG.START` at tick 5. -/
theorem test_origin_start :
    onNext (exec (.chOrigin 0) { st (fun x => { x with phase := pOrigin }) with tick := 5 })
      (fun t => (t.chan 0).org && (t.chan 0).so && (t.chan 0).oss == 5 &&
        (t.chan 0).phase == pIdle) = true := by decide

/-- A channel in `P_ORIGIN` with an actuation begun at `oss`, at the tick `now`. -/
def holding (oss now : Nat) : State :=
  { withCoils true false
      (st fun x => { x with phase := pOrigin, rq := true, org := true, so := true, oss := oss }) with
    tick := now }

/-- V4 and V7 (the wrap): `ORG.EXPIRE`; V3 and V8: `ORG.WAIT`. -/
theorem test_origin_expiry :
    onNext (exec (.chOrigin 0) (holding 5 10006)) (fun t =>
      !(t.chan 0).org && !(t.chan 0).so && (t.chan 0).phase == pClrcoil &&
      (t.chan 0).oss == 5 && t.table.coils[0]? == some true) = true ∧
    onNext (exec (.chOrigin 0) (holding 5 10005)) (fun t =>
      (t.chan 0).org && (t.chan 0).so && (t.chan 0).phase == pIdle) = true ∧
    onNext (exec (.chOrigin 0) (holding (2 ^ 64 - 3) 9998)) (fun t => !(t.chan 0).org) = true ∧
    onNext (exec (.chOrigin 0) (holding (2 ^ 64 - 3) 9997)) (fun t => (t.chan 0).org) = true := by decide

/-- An outcome row off its condition is no step (rule R106). -/
theorem test_origin_outcomes :
    onNext (exec (.orgExpire 0) (holding 5 10005)) (fun t => decide (t = holding 5 10005)) = true ∧
    onNext (exec (.orgWait 0) (holding 5 10005)) (fun t => (t.chan 0).phase == pIdle) = true ∧
    onNext (exec (.orgStart 0) (holding 5 10005)) (fun t => decide (t = holding 5 10005)) = true := by
  decide

/-- V4's last step: the coil is cleared, the other coil is not. -/
theorem test_clear_coil :
    onNext (exec (.chClrcoil 0) (withCoils true true (st fun x => { x with phase := pClrcoil })))
      (fun t => t.table.coils[0]? == some false && t.table.coils[1]? == some true &&
        (t.chan 0).phase == pIdle) = true := by decide

/-! ## The measurement cycle -/

/-- V14. -/
theorem test_measurement_start :
    onNext (exec (.chMstart 0) { State.reset with tick := 5 }) (fun t =>
      (t.chan 0).req && (t.chan 0).t0 == 5 && (t.chan 0).phase == pWlow) = true := by decide

/-- V14's end at the tick `now` with the clock pin at `clk`. -/
def waitingLow (clk : Bool) (now : Nat) : State :=
  { st (fun x => { x with req := true, t0 := 5, phase := pWlow }) with
    tick := now, pinClk := [clk, false] }

/-- V15, V19, V20, V21 and V22. -/
theorem test_low_wait :
    onNext (exec (.chWlow 0) (waitingLow true 5)) (fun t =>
      (t.chan 0).phase == pWhigh && (t.chan 0).t0 == 5) = true ∧
    onNext (exec (.chWlow 0) (waitingLow false 5)) (fun t => decide (t = waitingLow false 5)) = true ∧
    onNext (exec (.chWlow 0) (waitingLow false 45)) (fun t => decide (t = waitingLow false 45)) = true ∧
    onNext (exec (.chWlow 0) (waitingLow false 46)) (fun t =>
      (t.chan 0).phase == pIdle && (t.chan 0).res == 2 && (t.chan 0).req) = true ∧
    onNext (exec (.chWlow 0) (waitingLow true 46)) (fun t =>
      (t.chan 0).phase == pWhigh && (t.chan 0).t0 == 46) = true := by decide

/-- V23's channel at the tick `now` with the pins at `clk` and `dat`. -/
def waitingHigh (clk dat : Bool) (now : Nat) : State :=
  { st (fun x => { x with t0 := 100, phase := pWhigh, acc := 0x3 }) with
    tick := now, pinClk := [clk, true], pinDat := [dat, false] }

/-- V23, V24 and V25 (the accumulator by the law of rule R83). -/
theorem test_high_wait :
    onNext (exec (.chWhigh 0) (waitingHigh true false 140)) (fun t =>
      decide (t = waitingHigh true false 140)) = true ∧
    onNext (exec (.chWhigh 0) (waitingHigh true false 141)) (fun t =>
      (t.chan 0).phase == pIdle && (t.chan 0).res == 2 && (t.chan 0).acc == 3) = true ∧
    onNext (exec (.chWhigh 0) (waitingHigh false true 141)) (fun t =>
      (t.chan 0).t0 == 141 && (t.chan 0).acc == 9 && (t.chan 0).bi == 1) = true := by decide

/-- V16, V17 and V18. -/
theorem test_sample :
    onNext (exec (.chWhigh 0) { st (fun x => { x with phase := pWhigh, req := true }) with
      pinDat := [true, false] }) (fun t =>
      (t.chan 0).acc == 8 && (t.chan 0).bi == 1 && (t.chan 0).phase == pWlow &&
      (t.chan 0).req) = true ∧
    onNext (exec (.chWhigh 0) { st (fun x =>
      { x with phase := pWhigh, bi := 3, acc := 0xE, req := true }) with
      pinDat := [true, false] }) (fun t =>
      (t.chan 0).nib[0]? == some 0xF && (t.chan 0).ni == 1 && (t.chan 0).bi == 0 &&
      !(t.chan 0).req && (t.chan 0).phase == pWlow) = true ∧
    onNext (exec (.chWhigh 0) (st fun x =>
      { x with phase := pWhigh, ni := 12, bi := 3, nib := List.replicate 13 0xA })) (fun t =>
      (t.chan 0).nib[12]? == some 0 && (t.chan 0).nib[11]? == some 0xA && (t.chan 0).ni == 12 &&
      (t.chan 0).bi == 0 && (t.chan 0).phase == pDecode) = true := by decide

/-- V10, V11 and V13. -/
theorem test_accumulate :
    [true, false, true, false].foldl accumulate 0x0 = 0x5 ∧
    [true, true, false, false].foldl accumulate 0xA = 0x3 ∧
    [false, false, false, true].foldl accumulate 0xF = 0x8 := by decide

/-! ## Decode, binary32 and the write -/

/-- V30, V31, V34, V36, V37, V39, V45b and V45d. -/
theorem test_f32 :
    f32OfRatio true false 12345 (10 ^ 3) = 0x4145851F ∧
    f32OfRatio true true 150 (10 ^ 2) = 0xBFC00000 ∧
    f32OfRatio true true 0 1 = 0x80000000 ∧ f32OfRatio false true 0 1 = 0 ∧
    f32OfRatio true false 999999 1 = 0x497423F0 ∧
    f32OfRatio true false 999999 (10 ^ 9) = 0x3A831266 ∧
    f32OfRatio true false 1 10 = 0x3DCCCCCD ∧
    f32OfRatio true false 1666665 1 = 0x49CB7348 ∧
    f32OfRatio true false 1 (10 ^ 15) = 0x26901D7D := by decide

/-- V30 and V32 (sign nibble 9), V45e (the all-ones frame), V45a, as whole frames. -/
theorem test_frame_values :
    frameValue Config.reference (nibs 0xFFFF001234530) = 0x4145851F ∧
    frameValue Config.reference (nibs 0xFFFF900015021) = 0x3FC00000 ∧
    frameValue Config.reference (nibs 0xFFFFFFFFFFFFF) = 0x30E51090 ∧
    frameValue Config.reference (nibs 0xFFFF00000A000) = 0x42C80000 := by decide

/-- The decode of the frame `word` ends in `RES_INVALID_START` with `val` kept. -/
def invalidFrame (word : BitVec 52) : Bool :=
  onNext (exec (.chDecode 0) (st fun x => { x with phase := pDecode, nib := nibs word, val := 7 }))
    fun t => (t.chan 0).phase == pIdle && (t.chan 0).res == 3 && (t.chan 0).val == 7

/-- V46, V47, V48 and V49: `DEC.INVALID`. -/
theorem test_decode_invalid :
    invalidFrame 0x7FFF001234530 = true ∧ invalidFrame 0xFFFE001234530 = true ∧
    invalidFrame 0xFFEF001234530 = true ∧ invalidFrame 0x0000000000000 = true := by decide

/-- P5's decode step on channel 1. -/
theorem test_decode_ok :
    onNext (exec (.chDecode 1) (State.reset.updChan 1 fun x =>
      { x with phase := pDecode, nib := nibs 0xFFFF800015021 }))
      (fun t => (t.chan 1).phase == pWrite && (t.chan 1).val == 0xBFC00000) = true := by decide

/-- P1's and P5's write steps, and the other word order (rule R91). -/
theorem test_write :
    onNext (exec (.chWrite 0) (st fun x => { x with phase := pWrite, val := 0x4145851F })) (fun t =>
      t.table.inputs[0]? == some 0x4145 && t.table.inputs[1]? == some 0x851F && t.table.inputs[2]? == some 0 &&
      (t.chan 0).res == 1 && (t.chan 0).phase == pIdle) = true ∧
    onNext (exec (.chWrite 1) { State.reset.updChan 1 (fun x => { x with val := 0xBFC01234 }) with
      cfg := { Config.reference with wordOrder := .lswFirst } }) (fun t =>
      t.table.inputs[2]? == some 0x1234 && t.table.inputs[3]? == some 0xBFC0) = true := by decide

/-! ## The host port -/

/-- V52, V55 and V61's reads. -/
theorem test_host_read :
    onNext (exec (.hRdi 7 1) State.reset) (fun t => t.hStatus == hsOk && t.hRdata[0]? == some 0) = true ∧
    onNext (exec (.hRdc 0 3) (withCoils true true State.reset)) (fun t =>
      t.hRdata[0]? == some 1 && t.hRdata[1]? == some 1 && t.hRdata[2]? == some 0) = true ∧
    onNext (exec (.hRdd 0 8) State.reset) (fun t =>
      t.hStatus == hsOk && t.hRdata[0]? == some 0 && t.hRdata[7]? == some 0) = true ∧
    onNext (exec (.hRdh 6 2) { State.reset with table := { State.reset.table with
        holding := [0, 0, 0, 0, 0, 0, 0xBEEF, 0x1234] } }) (fun t =>
      t.hRdata[0]? == some 0xBEEF && t.hRdata[1]? == some 0x1234) = true := by decide

/-- V51, V53, V54, V56 and V57: out of range. -/
theorem test_host_bounds :
    onNext (exec (.hRdi 6 3) State.reset) (fun t => t.hStatus == 1) = true ∧
    onNext (exec (.hRdh 8 1) State.reset) (fun t => t.hStatus == 1) = true ∧
    onNext (exec (.hRdc 0 0) State.reset) (fun t => t.hStatus == 1) = true ∧
    onNext (exec (.hRdi 65535 2) State.reset) (fun t => t.hStatus == 1) = true ∧
    onNext (exec (.hWrh 7 2) { State.reset with hWdata := data2 0xAAAA 0xBBBB }) (fun t =>
      t.hStatus == 1 && t.table.holding[7]? == some 0) = true := by decide

/-- V61's write (bit 0 of each element, log entry 9), V58 and V59. -/
theorem test_host_write :
    onNext (exec (.hWrc 0 2) { State.reset with hWdata := data2 1 1 }) (fun t =>
      t.table.coils[0]? == some true && t.table.coils[1]? == some true &&
      t.table.coils[2]? == some false && t.hStatus == 0) = true ∧
    onNext (exec (.hIll5 0 1) State.reset) (fun t =>
      t.hStatus == 2 && decide (t.table = State.reset.table)) = true ∧
    onNext (exec (.hIll7 100 0) State.reset) (fun t => t.hStatus == 2) = true := by decide

/-! ## Tick, flags, Sequencer -/

/-- V70 to V73. -/
theorem test_glue :
    onNext (exec .tickInc { State.reset with tick := 41, tmrIrqPend := true }) (fun t =>
      t.tick == 42 && !t.tmrIrqPend) = true ∧
    onNext (exec .tickInc { State.reset with tick := 2 ^ 64 - 1, tmrIrqPend := true }) (fun t =>
      t.tick == 0) = true ∧
    onNext (exec .tmrEvt { State.reset with tmrIrqPend := true }) (fun t =>
      t.tmrIrqPend && t.tick == 0) = true ∧
    onNext (exec .adpSet { State.reset with adpIrqPend := true }) (fun t =>
      t.adapterPending && !t.adpIrqPend) = true := by decide

/-- V74, and rule R229 while the network side is not done. -/
theorem test_seq_open :
    onNext (exec .seqSnap { State.reset with tick := 9 }) (fun t =>
      t.netNow == 9 && t.q == qAdpclr) = true ∧
    onNext (exec .seqAdpclr { State.reset with adapterPending := true, q := qAdpclr }) (fun t =>
      !t.adapterPending && t.q == qNetadv) = true ∧
    onNext (exec .seqNetadv { State.reset with q := qNetadv }) (fun t => t.q == qNetadv) = true := by
  decide

/-- V76, V78 and P7's second request. -/
theorem test_seq_ch :
    onNext (exec .seqCh { State.reset with q := qCh, qc := 1, qs := true }) (fun t =>
      !t.qs && t.q == qHost && t.qc == 1) = true ∧
    onNext (exec .seqCh { st (fun x => { x with phase := pWlow }) with q := qCh, qs := true })
      (fun t => t.qs && t.q == qCh) = true ∧
    onNext (exec .seqCh { State.reset with q := qCh, qc := 1 }) (fun t =>
      t.qs && (t.chan 1).ps && !(t.chan 0).ps) = true := by decide

/-- V77, and P7's last line. -/
theorem test_seq_host :
    onNext (exec .seqHost { State.reset with q := qHost }) (fun t =>
      t.q == qSnap && !t.hDone) = true ∧
    onNext (exec .seqHost { withCoils true true State.reset with
      q := qHost, hValid := true, hCount := 2 }) (fun t =>
      t.q == qSnap && t.hDone && t.hStatus == 0 && t.hRdata[0]? == some 1 && t.hRdata[1]? == some 1) = true := by
  decide

/-! ## Scripts -/

/-- V48: a frame with a bad marker sends its wrong nibble too. -/
theorem test_frame_bad_marker :
    onNext (exec (.frame 0 0xFFEF 0 0 1 2 3 4 5 3 0) State.reset) (fun t =>
      (t.script.drop 40).take 20 == scriptNib 0 0xE) = true := by decide

/-- Rule R108: the frame's first bit is placed first, and P4's wrong nibble starts with a 0. -/
theorem test_frame_script :
    onNext (exec (.frame 0 0xFFFF 0 0 1 2 3 4 5 3 0) State.reset) (fun t =>
      t.script.take 5 == scriptBit 0 true) = true ∧
    (scriptNib 0 0xE).length = 20 ∧
    (scriptNib 0 0xE).head? = some (.ev (.dat 0 false)) := by decide

/-- Rule R107: `HOST` in `SERIAL` mode waits while a channel is busy, and runs when none is. -/
theorem test_host_waits :
    onNext (step { st (fun x => { x with phase := pWlow }) with
      script := [.host 0x400000001 (data2 1 0)] }) (fun t =>
      t.hValid && !t.hDone && t.table.coils[0]? == some false) = true ∧
    onNext (step { State.reset with script := [.host 0x400000001 (data2 1 0)] }) (fun t =>
      !t.hValid && t.hDone && t.table.coils[0]? == some true) = true := by decide

/-- V9: `START` of a busy channel is refused. -/
theorem test_start_refused :
    step { st (fun x => { x with phase := pWlow }) with script := [.start 0] } =
      .refused (.startWhileBusy 0) := by rfl

/-! ## Other builds -/

/-- Rules R5 and R91: in a build of three channels, channel 2's write step, `LSW_FIRST`. -/
theorem test_other_build :
    onNext (exec (.chWrite 2) ((State.resetIn { Config.reference with
        nch := 3, n := 12, originCoil := [11, 0, 5], iregBase := [10, 0, 4],
        wordOrder := .lswFirst }).updChan 2 fun x => { x with val := 0xBFC01234 })) (fun t =>
      t.table.inputs[4]? == some 0x1234 && t.table.inputs[5]? == some 0xBFC0 &&
      (t.chan 2).res == 1) = true := by decide

/-- Rules R27 and R219 with an 8-bit Tick Clock: the wrap, and the difference over it. -/
theorem test_tick_width :
    onNext (exec .tickInc { State.resetIn { Config.reference with tickW := 8 } with
      tick := 255, tmrIrqPend := true }) (fun t => t.tick == 0) = true ∧
    tickDiff { Config.reference with tickW := 8 } 4 250 = 10 := by decide

/-! ## Witnesses: the hypotheses of the statements can be met -/

theorem witness_decodeOfEncode :
    (Instr.frame 1 0xFFEF 8 0 0 0 1 5 0 2 1).wf Config.reference = true ∧
    (Instr.hRdi 65535 65535).wf Config.reference = true := by decide

theorem witness_decodedCode :
    (Code.h 0x300060003).wf Config.reference = true ∧
    decode Config.reference (.h 0x300060003) = .ok (.hRdi 6 3) := by decide

/-- The first reserved codes, and states that hold them. -/
theorem witness_reservedCodes :
    9 ≤ (9#4).toNat ∧ 5 ≤ (5#3).toNat ∧
    (∃ s : State, s.cfg.valid = true ∧ ∃ x ∈ s.chans, 9 ≤ x.phase.toNat) ∧
    (∃ s : State, s.cfg.valid = true ∧ (∀ x ∈ s.chans, x.phase.toNat ≤ 8) ∧ 5 ≤ s.q.toNat) ∧
    ∃ s : State, s.cfg.valid = true ∧ (∀ x ∈ s.chans, x.phase.toNat ≤ 8) ∧ s.q.toNat ≤ 4 ∧
      s.hStatus = 3 :=
  ⟨by decide, by decide, ⟨State.reset.updChan 1 (fun x => { x with phase := 9 }), by decide⟩,
    ⟨{ State.reset with q := 5 }, by decide⟩, ⟨{ State.reset with hStatus := 3 }, by decide⟩⟩

/-- One state for each clause of `StepRunsTheDecodedOperation`. -/
theorem witness_stepRuns :
    (∃ s : State, s.accepted ∧ s.script = .ev (.chan 0) :: [] ∧
      decode s.cfg (.s 0 (s.chan 0).phase) = .ok (.chPoll 0)) ∧
    (∃ s : State, s.accepted ∧ s.script = .ev .seq :: [] ∧
      decode s.cfg (.q s.q) = .ok .seqSnap) ∧
    (∃ s : State, s.accepted ∧ s.script = .ev (.glue 1) :: [] ∧
      decode s.cfg (.e 1) = .ok .tickInc) ∧
    (∃ s : State, s.accepted ∧ s.script = .host 0x300000002 (data2 0 0) :: [] ∧
      decode s.cfg (.h 0x300000002) = .ok (.hRdi 0 2) ∧ s.hValid = false ∧
      ∀ x ∈ s.chans, x.phase = pIdle) ∧
    (∃ s : State, s.accepted ∧ s.script = .host 0x300000002 (data2 0 0) :: [] ∧
      decode s.cfg (.h 0x300000002) = .ok (.hRdi 0 2) ∧ s.hValid = false ∧
      s.cfg.seqMode = .concurrent ∧ (s.chan 0).phase ≠ pIdle) ∧
    (∃ s : State, s.accepted ∧ s.script = .ev .host :: [] ∧ s.hValid = true ∧
      s.cfg.seqMode = .concurrent ∧
      decode s.cfg (.h (hostWord s.cfg s.hCmd s.hAddr s.hCount)) = .ok (.hRdc 0 0)) ∧
    ∃ s : State, s.accepted ∧ s.script = .frame 0 0xFFFF800015021 :: [] ∧
      decode s.cfg (.f 0 0xFFFF800015021) = .ok (.frame 0 0xFFFF 8 0 0 0 1 5 0 2 1) :=
  ⟨⟨{ State.reset with script := [.ev (.chan 0)] }, ⟨by decide, by decide⟩, by decide⟩,
    ⟨{ State.reset with script := [.ev .seq] }, ⟨by decide, by decide⟩, by decide⟩,
    ⟨{ State.reset with script := [.ev (.glue 1)] }, ⟨by decide, by decide⟩, by decide⟩,
    ⟨{ State.reset with script := [.host 0x300000002 (data2 0 0)] },
      ⟨by decide, by decide⟩, by decide⟩,
    ⟨{ st (fun x => { x with phase := pWlow }) with
        cfg := concurrent, script := [.host 0x300000002 (data2 0 0)] },
      ⟨by decide, by decide⟩, by decide⟩,
    ⟨{ State.reset with script := [.ev .host], hValid := true, cfg := concurrent },
      ⟨by decide, by decide⟩, by decide⟩,
    ⟨{ State.reset with script := [.frame 0 0xFFFF800015021] }, ⟨by decide, by decide⟩, by decide⟩⟩

theorem witness_placedWord :
    State.reset.accepted ∧ State.reset.cfg.addrW = 16 ∧ State.reset.cfg.countW = 16 ∧
    0 < State.reset.chans.length ∧ decodeTableWord 40 0x600070001 = some (.hWrh 7 1) ∧
    ∀ x ∈ State.reset.chans, x.phase = pIdle :=
  ⟨⟨by decide, by decide⟩, by decide⟩

theorem witness_invalidConfiguration :
    { Config.reference with originCoil := [0, 8] }.valid = false ∧
    0 < Config.reference.nch ∧ 1 < Config.reference.nch ∧ (0 : Nat) ≠ 1 := by decide

/-- Idle and unrequested; busy; requested. -/
theorem witness_start :
    (∃ s : State, s.accepted ∧ s.script = .start 0 :: [] ∧
      (s.chan 0).phase = pIdle ∧ (s.chan 0).ps = false) ∧
    (∃ s : State, s.accepted ∧ s.script = .start 0 :: [] ∧ (s.chan 0).phase ≠ pIdle) ∧
    ∃ s : State, s.accepted ∧ s.script = .start 0 :: [] ∧ (s.chan 0).ps = true :=
  ⟨⟨{ State.reset with script := [.start 0] }, ⟨by decide, by decide⟩, by decide⟩,
    ⟨{ st (fun x => { x with phase := pWlow }) with script := [.start 0] },
      ⟨by decide, by decide⟩, by decide⟩,
    ⟨{ st (fun x => { x with ps := true }) with script := [.start 0] },
      ⟨by decide, by decide⟩, by decide⟩⟩

/-- Reset in the middle of a measurement and an actuation. -/
theorem witness_resetInput :
    ∃ s : State, s.accepted ∧ s.script = .ev .rst :: [.ev .seq] ∧
      (s.chan 0).phase = pWhigh ∧ (s.chan 0).req = true :=
  ⟨{ st (fun x => { x with phase := pWhigh, req := true }) with script := [.ev .rst, .ev .seq] },
    ⟨by decide, by decide⟩, by decide⟩

theorem witness_poll :
    (∃ s : State, 0 < s.chans.length ∧ (s.chan 0).phase = pIdle ∧ (s.chan 0).ps = true) ∧
    (∃ s : State, 0 < s.chans.length ∧ (s.chan 0).phase ≠ pIdle) ∧
    ∃ s : State, 1 < s.chans.length ∧ (s.chan 1).ps = false ∧ (0 : Nat) ≠ 1 :=
  ⟨⟨st fun x => { x with ps := true }, by decide⟩, ⟨st fun x => { x with phase := pWlow }, by decide⟩,
    ⟨State.reset, by decide⟩⟩

/-- The three dispatches, the last coil of the table among them. -/
theorem witness_coilRead :
    (∃ s : State, 1 < s.chans.length ∧ s.cfg.coil 1 < s.cfg.n ∧
      s.table.coils[s.cfg.coil 1]? = some true) ∧
    (∃ s : State, 0 < s.chans.length ∧ s.cfg.coil 0 < s.cfg.n ∧
      s.table.coils[s.cfg.coil 0]? = some false ∧ (s.chan 0).so = true) ∧
    ∃ s : State, 0 < s.chans.length ∧ s.cfg.coil 0 < s.cfg.n ∧ s.cfg.coil 0 = 7 ∧
      s.table.coils[s.cfg.coil 0]? = some false ∧ (s.chan 0).so = false :=
  ⟨⟨withCoils false true State.reset, by decide⟩, ⟨st fun x => { x with so := true }, by decide⟩,
    ⟨{ State.reset with cfg := { Config.reference with originCoil := [7, 0] } }, by decide⟩⟩

/-- Each outcome, the two sides of the boundary 10 000 and 10 001 among them. -/
theorem witness_origin :
    (0 < State.reset.chans.length ∧ (State.reset.chan 0).so = false) ∧
    (((holding 5 10006).chan 0).so = true ∧
      (holding 5 10006).cfg.originTimeoutTicks < tickDiff (holding 5 10006).cfg
        (holding 5 10006).tick ((holding 5 10006).chan 0).oss ∧
      (holding 5 10006).cfg.tickW = 64 ∧
      (holding 5 10006).tick = (((holding 5 10006).chan 0).oss + 10001) % 2 ^ 64) ∧
    ((holding 5 10005).chan 0).so = true ∧
      tickDiff (holding 5 10005).cfg (holding 5 10005).tick ((holding 5 10005).chan 0).oss ≤
        (holding 5 10005).cfg.originTimeoutTicks ∧
      (holding 5 10005).cfg.originTimeoutTicks = 10000 ∧
      (holding 5 10005).tick = (((holding 5 10005).chan 0).oss + 10000) % 2 ^ 64 := by decide

theorem witness_coilClear :
    ∃ s : State, 0 < s.chans.length ∧ s.cfg.coil 0 < s.cfg.n ∧
      s.cfg.coil 0 < s.table.coils.length ∧ s.cfg.coil 0 = 7 :=
  ⟨{ State.reset with cfg := { Config.reference with originCoil := [7, 0] } }, by decide⟩

/-- V5's and V6's starts. -/
theorem witness_clearedCoil :
    (∃ s : State, 0 < s.chans.length ∧ s.cfg.coil 0 < s.cfg.n ∧
      s.table.coils[s.cfg.coil 0]? = some false ∧ (s.chan 0).phase = pIdle ∧
      (s.chan 0).ps = true ∧ (s.chan 0).so = true) ∧
    ∃ s : State, 0 < s.chans.length ∧ s.cfg.coil 0 < s.cfg.n ∧
      s.table.coils[s.cfg.coil 0]? = some true ∧ (s.chan 0).phase = pIdle ∧
      (s.chan 0).ps = true ∧ (s.chan 0).so = true ∧
      s.cfg.originTimeoutTicks < tickDiff s.cfg s.tick (s.chan 0).oss :=
  ⟨⟨st fun x => { x with ps := true, so := true }, by decide⟩,
    ⟨{ withCoils true false (st fun x => { x with ps := true, so := true, oss := 5 }) with
        tick := 20005 }, by decide⟩⟩

/-- A state whose script is not empty and does not begin with the reset does not choose it. -/
theorem choosesReset_cons (s : State) (it : Item) (rest : List Item) (h : s.script = it :: rest)
    (hne : it ≠ .ev .rst) : ¬ s.choosesReset := by
  rintro (⟨r, hr⟩ | ⟨hr, -⟩)
  · rw [h] at hr; injection hr with h1; exact hne h1
  · rw [h] at hr; cases hr

/-- The first expiring step (elapsed 10 001), taken from a script. -/
theorem witness_originFalls :
    ∃ s t : State, ¬ s.choosesReset ∧ step s = .next t ∧ (s.chan 0).org = true ∧
      (t.chan 0).org = false := by
  obtain ⟨t, ht, hp⟩ := onNext_exists
    (step { holding 5 10006 with script := [.ev (.chan 0)] }) (fun t => !(t.chan 0).org) (by decide)
  exact ⟨_, t, choosesReset_cons _ (.ev (.chan 0)) [] rfl (by decide), ht, by decide, by simpa using hp⟩

theorem witness_measurementStart : 1 < State.reset.chans.length ∧ (0 : Nat) ≠ 1 := by decide

/-- The three outcomes at the boundary 40 and 41. -/
theorem witness_lowWait :
    (0 < (waitingLow true 46).chans.length ∧ pinReadClk (waitingLow true 46) 0 = true) ∧
    (pinReadClk (waitingLow false 46) 0 = false ∧ (waitingLow false 46).cfg.bitTimeoutTicks <
      tickDiff (waitingLow false 46).cfg (waitingLow false 46).tick
        ((waitingLow false 46).chan 0).t0) ∧
    pinReadClk (waitingLow false 45) 0 = false ∧
      tickDiff (waitingLow false 45).cfg (waitingLow false 45).tick
        ((waitingLow false 45).chan 0).t0 ≤ (waitingLow false 45).cfg.bitTimeoutTicks := by decide

theorem witness_highWait :
    (0 < (waitingHigh false true 141).chans.length ∧
      pinReadClk (waitingHigh false true 141) 0 = false) ∧
    (pinReadClk (waitingHigh true true 141) 0 = true ∧
      (waitingHigh true true 141).cfg.bitTimeoutTicks < tickDiff (waitingHigh true true 141).cfg
        (waitingHigh true true 141).tick ((waitingHigh true true 141).chan 0).t0) ∧
    pinReadClk (waitingHigh true true 140) 0 = true ∧
      tickDiff (waitingHigh true true 140).cfg (waitingHigh true true 140).tick
        ((waitingHigh true true 140).chan 0).t0 ≤
        (waitingHigh true true 140).cfg.bitTimeoutTicks := by decide

/-- Within a nibble, nibble 0 complete, the last but one nibble complete, the frame complete; and a high
clock. -/
theorem witness_sample :
    (∃ (s : State) (a : Nibble), 0 < s.chans.length ∧ (s.chan 0).nib.length = s.cfg.nnib ∧
      a = (((s.chan 0).acc >>> 1) ||| ((if pinReadDat s 0 then 1#4 else 0#4) <<< 3)) ∧
      pinReadClk s 0 = false ∧ (s.chan 0).bi.toNat < 3) ∧
    (∃ (s : State) (a : Nibble), 0 < s.chans.length ∧ (s.chan 0).nib.length = s.cfg.nnib ∧
      a = (((s.chan 0).acc >>> 1) ||| ((if pinReadDat s 0 then 1#4 else 0#4) <<< 3)) ∧
      pinReadClk s 0 = false ∧ (s.chan 0).bi = 3 ∧ (s.chan 0).ni = 0 ∧
      (s.chan 0).ni.toNat < s.cfg.nnib - 1 ∧ 0 < s.cfg.nnib ∧ (s.chan 0).req = true) ∧
    (∃ (s : State) (a : Nibble), 0 < s.chans.length ∧ (s.chan 0).nib.length = s.cfg.nnib ∧
      a = (((s.chan 0).acc >>> 1) ||| ((if pinReadDat s 0 then 1#4 else 0#4) <<< 3)) ∧
      pinReadClk s 0 = false ∧ (s.chan 0).bi = 3 ∧ (s.chan 0).ni = 11 ∧
      (s.chan 0).ni.toNat < s.cfg.nnib - 1 ∧ 11 < s.cfg.nnib) ∧
    (∃ (s : State) (a : Nibble), 0 < s.chans.length ∧ (s.chan 0).nib.length = s.cfg.nnib ∧
      a = (((s.chan 0).acc >>> 1) ||| ((if pinReadDat s 0 then 1#4 else 0#4) <<< 3)) ∧
      pinReadClk s 0 = false ∧ (s.chan 0).bi = 3 ∧ (s.chan 0).ni = 12 ∧
      s.cfg.nnib - 1 ≤ (s.chan 0).ni.toNat) ∧
    ∃ (s : State) (a : Nibble), 0 < s.chans.length ∧ (s.chan 0).nib.length = s.cfg.nnib ∧
      a = (((s.chan 0).acc >>> 1) ||| ((if pinReadDat s 0 then 1#4 else 0#4) <<< 3)) ∧
      pinReadClk s 0 = true :=
  ⟨⟨st fun x => { x with bi := 2, acc := 4 }, 2, by decide⟩,
    ⟨st fun x => { x with bi := 3, ni := 0, acc := 4, req := true }, 2, by decide⟩,
    ⟨st fun x => { x with bi := 3, ni := 11, acc := 4 }, 2, by decide⟩,
    ⟨st fun x => { x with bi := 3, ni := 12, acc := 4 }, 2, by decide⟩,
    ⟨waitingHigh true true 141, 9, by decide⟩⟩

theorem witness_pulse :
    ∃ s : State, s.accepted ∧ 0 < s.chans.length ∧ 0 < s.pinClk.length ∧ 0 < s.pinDat.length ∧
      (s.chan 0).phase = pWlow ∧ s.script = scriptBit 0 true ++ [.ev (.chan 0)] :=
  ⟨{ st (fun x => { x with phase := pWlow, bi := 3 }) with
      script := scriptBit 0 true ++ [.ev (.chan 0)] }, ⟨by decide, by decide⟩, by decide⟩

/-- The start of a measurement of channel 0 with the script `items`. -/
def measuring (items : List Item) : State :=
  { st (fun x => { x with phase := pWlow, req := true }) with script := items }

theorem measuring_accepted (items : List Item) : (measuring items).accepted := ⟨rfl, rfl⟩

theorem witness_frameOnTheWire :
    ∃ (s : State) (g : List Nibble) (a : Nibble), s.accepted ∧ 0 < s.chans.length ∧
      0 < s.pinClk.length ∧ 0 < s.pinDat.length ∧ (g ++ [a]).length = s.cfg.nnib ∧
      s.cfg.nnib ≤ 16 ∧ (s.chan 0).nib.length = s.cfg.nnib ∧ (s.chan 0).phase = pWlow ∧
      (s.chan 0).ni = 0 ∧ (s.chan 0).bi = 0 ∧ s.script = scriptFrame 0 (g ++ [a]) ++ [] :=
  ⟨measuring (scriptFrame 0 ((nibs 0xFFFF001234530).take 12 ++ [0]) ++ []),
    (nibs 0xFFFF001234530).take 12, 0, measuring_accepted _,
    by decide, by decide, by decide, by decide, by decide, by decide, by decide, by decide,
    by decide, rfl⟩

/-- V48's frame, one wrong nibble. -/
theorem witness_badFrame :
    ∃ (s : State) (w : BitVec 52), s.accepted ∧ 0 < s.chans.length ∧ 0 < s.pinClk.length ∧
      0 < s.pinDat.length ∧ s.cfg.nnib = 13 ∧ (s.chan 0).nib.length = 13 ∧
      (s.chan 0).phase = pWlow ∧ (s.chan 0).ni = 0 ∧ (s.chan 0).bi = 0 ∧
      w.extractLsb' 36 16 ≠ 0xFFFF ∧ s.script = .frame 0 w :: .ev (.chan 0) :: [] :=
  ⟨measuring [.frame 0 0xFFEF001234530, .ev (.chan 0)], 0xFFEF001234530, measuring_accepted _,
    by decide⟩

/-- One wrong nibble, at each of the four places, in a buffer of thirteen. -/
theorem witness_badMarker :
    (∃ o, nibs 0x7FFF001234530 = 7 :: 0xF :: 0xF :: 0xF :: o) ∧
    (∃ o, nibs 0xF7FF001234530 = 0xF :: 7 :: 0xF :: 0xF :: o) ∧
    (∃ o, nibs 0xFFEF001234530 = 0xF :: 0xF :: 0xE :: 0xF :: o) ∧
    ∃ s : State, 0 < s.chans.length ∧ ∃ o, (s.chan 0).nib = 0xF :: 0xF :: 0xF :: 0xE :: o :=
  ⟨⟨_, rfl⟩, ⟨_, rfl⟩, ⟨_, rfl⟩, ⟨st fun x => { x with nib := nibs 0xFFFE001234530 }, by decide, _, rfl⟩⟩

theorem witness_goodMarker :
    ∃ s : State, 1 < s.chans.length ∧
      (s.chan 1).nib = [0xF, 0xF, 0xF, 0xF] ++ 8 :: 0 :: 0 :: 0 :: 1 :: 5 :: 0 :: 2 :: [1] :=
  ⟨State.reset.updChan 1 fun x => { x with nib := nibs 0xFFFF800015021 }, by decide⟩

/-- V36's digits, the largest decimal magnitude. -/
theorem witness_magnitude :
    [(0xF : Nibble), 0xF, 0xF, 0xF, 0].length = 5 ∧
    nibs 0xFFFF099999900 = [0xF, 0xF, 0xF, 0xF, 0] ++ 9 :: 9 :: 9 :: 9 :: 9 :: 9 :: [0, 0] ∧
    (∀ d ∈ [(9 : Nibble), 9, 9, 9, 9, 9], d.toNat ≤ 9) ∧
    frameMagnitude (nibs 0xFFFF099999900) = 999999 := by decide

/-- The smallest and the largest ratio of a frame, and a normal pattern to compare with. -/
theorem witness_ratio :
    (0 < 1 ∧ 1 ≤ 1666665 ∧ 15 ≤ 15) ∧ (0 < 1666665 ∧ 1666665 ≤ 1666665 ∧ 0 ≤ 15) ∧
    normalPattern 0x3F800000 := by
  unfold normalPattern; decide

theorem witness_producedPatterns : (0 : Nat) ≤ 1666665 ∧ 0 < 1666665 ∧ 1666665 ≤ 1666665 ∧ 15 ≤ 15 := by
  decide

/-- The last pair of the table. -/
theorem witness_write :
    ∃ s : State, 0 < s.chans.length ∧ s.cfg.base 0 + 1 < s.cfg.n ∧
      s.cfg.base 0 + 1 < s.table.inputs.length ∧ s.cfg.base 0 = 6 :=
  ⟨{ State.reset with cfg := { Config.reference with iregBase := [6, 0] } }, by decide⟩

/-- A read of exactly the pair of channel 1, in both word orders. -/
theorem witness_pairRead :
    (∃ (s : State) (addr count b : Nat), b = s.cfg.base 1 ∧ b + 1 < s.cfg.n ∧
      s.table.inputs.length = s.cfg.n ∧ addr ≤ b ∧ b + 2 ≤ addr + count ∧
      addr + count ≤ s.cfg.n ∧ s.cfg.wordOrder = .mswFirst) ∧
    ∃ (s : State) (addr count b : Nat), b = s.cfg.base 1 ∧ b + 1 < s.cfg.n ∧
      s.table.inputs.length = s.cfg.n ∧ addr ≤ b ∧ b + 2 ≤ addr + count ∧
      addr + count ≤ s.cfg.n ∧ s.cfg.wordOrder = .lswFirst :=
  ⟨⟨State.reset, 2, 2, 2, by decide⟩,
    ⟨{ State.reset with cfg := { Config.reference with wordOrder := .lswFirst } }, 0, 8, 2,
      by decide⟩⟩

/-- In range: one element at the end, and the whole space; an index inside, one below and one above. -/
theorem witness_hostInRange :
    (State.reset.table.shaped State.reset.cfg ∧
      State.reset.hWdata.length = State.reset.cfg.n) ∧
    (1 ≤ 1 ∧ 7 + 1 ≤ State.reset.cfg.n ∧ 0 < 1) ∧ (1 ≤ 8 ∧ 0 + 8 ≤ State.reset.cfg.n ∧ 7 < 8) ∧
    (1 ≤ 2 ∧ 3 + 2 ≤ State.reset.cfg.n ∧ 2 < 3 ∧ 3 + 2 ≤ 5) := by
  simp only [Table.shaped]; decide

/-- Out of range: no element, one past the end, and a sum that would wrap in 16 bits. -/
theorem witness_hostOutOfRange :
    State.reset.cfg.n < 8 + 1 ∧ State.reset.cfg.n < 65535 + 2 ∧
    Instr.hRdi 65535 2 ∈ [Instr.hRdc 65535 2, .hRdd 65535 2, .hRdh 65535 2, .hRdi 65535 2,
      .hWrc 65535 2, .hWrh 65535 2] ∧
    Instr.hWrh 3 0 ∈ [Instr.hRdc 3 0, .hRdd 3 0, .hRdh 3 0, .hRdi 3 0, .hWrc 3 0, .hWrh 3 0] := by
  decide

/-- A read that succeeds, in two states that agree on the table and differ elsewhere. -/
theorem witness_hostReaches :
    ∃ (reads others : List Instr) (s1 s2 t1 : State),
      reads = [.hRdc 0 2, .hRdd 0 2, .hRdh 0 2, .hRdi 0 2] ∧
      others = [.hWrc 0 2, .hIll5 0 2, .hWrh 0 2, .hIll7 0 2] ∧
      .hRdi 0 2 ∈ reads ++ others ∧ .hRdi 0 2 ∈ reads ∧
      s1.cfg.n = s2.cfg.n ∧ s1.table = s2.table ∧ s1.hWdata = s2.hWdata ∧ s1.free = s2.free ∧
      s1.tick ≠ s2.tick ∧ exec (.hRdi 0 2) s1 = .next t1 ∧ t1.hStatus = hsOk := by
  obtain ⟨t, ht, hp⟩ := onNext_exists (exec (.hRdi 0 2) State.reset) (fun t => t.hStatus == hsOk)
    (by decide)
  exact ⟨_, _, State.reset, { State.reset with tick := 9 }, t, rfl, rfl, by decide, by decide, rfl,
    rfl, rfl, rfl, by decide, ht, by simpa using hp⟩

theorem witness_handlers :
    (∃ s : State, s.tmrIrqPend = true) ∧ (∃ s : State, s.tmrIrqPend = false) ∧
    (∃ s : State, s.adpIrqPend = true) ∧ ∃ s : State, s.adpIrqPend = false :=
  ⟨⟨{ State.reset with tmrIrqPend := true }, rfl⟩, ⟨State.reset, rfl⟩,
    ⟨{ State.reset with adpIrqPend := true }, rfl⟩, ⟨State.reset, rfl⟩⟩

theorem witness_tickDifference : 5 ≤ 10006 ∧ 10006 - 5 < 2 ^ Config.reference.tickW := by decide

theorem witness_seqOpen :
    (∃ s : State, s.netAdvDone = true) ∧ ∃ s : State, s.netAdvDone = false :=
  ⟨⟨{ State.reset with netAdvDone := true }, rfl⟩, ⟨State.reset, rfl⟩⟩

/-- The request, the next channel, the host's slot and the wait. -/
theorem witness_seqSerial :
    (∃ s : State, s.cfg.seqMode = .serial ∧ (s.chan s.qc).phase = pIdle ∧
      (s.chan s.qc).ps = false ∧ s.qs = false) ∧
    (∃ s : State, s.cfg.seqMode = .serial ∧ s.qc + 1 < s.cfg.nch ∧
      (s.chan s.qc).phase = pIdle ∧ (s.chan s.qc).ps = false ∧ s.qs = true) ∧
    (∃ s : State, s.cfg.seqMode = .serial ∧ s.cfg.nch = s.qc + 1 ∧
      (s.chan s.qc).phase = pIdle ∧ (s.chan s.qc).ps = false ∧ s.qs = true) ∧
    ∃ s : State, s.cfg.seqMode = .serial ∧ (s.chan s.qc).phase ≠ pIdle :=
  ⟨⟨State.reset, by decide⟩, ⟨{ State.reset with qs := true }, by decide⟩,
    ⟨{ State.reset with qs := true, qc := 1 }, by decide⟩,
    ⟨st fun x => { x with phase := pWlow }, by decide⟩⟩

theorem witness_seqConcurrent :
    (∃ s : State, s.cfg.seqMode = .concurrent ∧
      (∀ x ∈ s.chans, x.phase = pIdle ∧ x.ps = false) ∧ s.qs = false) ∧
    (∃ s : State, s.cfg.seqMode = .concurrent ∧
      (∀ x ∈ s.chans, x.phase = pIdle ∧ x.ps = false) ∧ s.qs = true) ∧
    ∃ s : State, s.cfg.seqMode = .concurrent ∧
      ∃ x ∈ s.chans, x.phase ≠ pIdle ∨ x.ps = true :=
  ⟨⟨{ State.reset with cfg := concurrent }, by decide⟩,
    ⟨{ State.reset with cfg := concurrent, qs := true }, by decide⟩,
    ⟨{ st (fun x => { x with ps := true }) with cfg := concurrent }, by decide⟩⟩

theorem witness_seqHost :
    (∃ s : State, s.cfg.seqMode = .serial ∧ s.hValid = false) ∧
    ∃ s : State, s.cfg.seqMode = .serial ∧ s.hValid = true ∧ s.hAddr < 2 ^ s.cfg.addrW ∧
      s.hCount < 2 ^ s.cfg.countW :=
  ⟨⟨State.reset, by decide⟩, ⟨{ State.reset with hValid := true, hCount := 1 }, by decide⟩⟩

/-- A channel operation that writes the table. -/
theorem witness_channelAccess :
    ∃ s t : State, channelOf (.chWrite 0) = some 0 ∧ exec (.chWrite 0) s = .next t ∧
      t.table ≠ s.table := by
  obtain ⟨t, ht, hp⟩ := onNext_exists (exec (.chWrite 0) (st fun x => { x with val := 1 }))
    (fun t => t.table.inputs[1]? == some 1) (by decide)
  refine ⟨_, t, rfl, ht, fun h => ?_⟩
  rw [h] at hp
  revert hp
  decide

/-- Two states that differ in the other channel's registers and in another coil. -/
theorem witness_isolated :
    ∃ s1 s2 : State, channelOf (.chRdcoil 0) = some 0 ∧ s1.cfg.valid = true ∧ 0 < s1.cfg.nch ∧
      s1.shaped ∧ s2.shaped ∧ s1.cfg = s2.cfg ∧ s1.tick = s2.tick ∧ s1.chan 0 = s2.chan 0 ∧
      pinReadClk s1 0 = pinReadClk s2 0 ∧ pinReadDat s1 0 = pinReadDat s2 0 ∧
      s1.table.coils[s1.cfg.coil 0]? = s2.table.coils[s1.cfg.coil 0]? ∧ s1 ≠ s2 := by
  refine ⟨State.reset, withCoils false true (State.reset.updChan 1 fun x => { x with so := true }), ?_⟩
  simp only [State.shaped, Table.shaped, Channel.shaped]
  decide

theorem witness_resetIn : 0 < Config.reference.nch ∧ Config.reference.valid = true := by decide

/-- Of two channels and the indices that name none. -/
theorem every_chan (s : State) (P : Channel → Prop) (h : s.chans.length = 2) (h0 : P (s.chan 0))
    (h1 : P (s.chan 1)) (h2 : P (Channel.reset 0)) (c : Nat) : P (s.chan c) := by
  rcases c with _ | _ | c
  · exact h0
  · exact h1
  · rw [chan_absent s _ (by omega)]; exact h2

/-- Channel 0 at the start of its measurement, polled by the Sequencer. -/
def polling : State :=
  { st (fun x => { x with phase := pMstart }) with q := qCh, qs := true, script := [.ev (.chan 0)] }

theorem polling_exclusive : polling.serialExclusive := by
  rintro - (_ | _ | c) h
  · decide
  · exact absurd h (by decide)
  · rw [settled, busy, chan_absent polling _ (Nat.le_add_left 2 c)] at h
    exact absurd h (by decide)

/-- A step of channel 0's poll that meets every invariant before it. -/
theorem witness_invariants :
    ∃ s t : State, s.legal ∧ s.shaped ∧ s.serialExclusive ∧ s.sequencerStartsPolls ∧
      s.originOutputsAgree ∧ s.discreteZero ∧ s.cfg.nnib ≤ 16 ∧
      (∀ c, (s.chan c).pollConsistent s.cfg) ∧ ¬ s.choosesReset ∧ step s = .next t ∧
      (t.chan 0).phase = pWlow := by
  obtain ⟨t, ht, hp⟩ := onNext_exists (step polling) (fun t => (t.chan 0).phase == pWlow) (by decide)
  refine ⟨polling, t, ⟨?_, by decide⟩, ?_, polling_exclusive, ?_, ?_, ?_, by decide, ?_,
    choosesReset_cons _ (.ev (.chan 0)) [] rfl (by decide), ht, by simpa using hp⟩
  · refine every_chan _ (·.legal _) rfl ?_ ?_ ?_ <;> (simp only [Channel.legal]; decide)
  · simp only [State.shaped, Table.shaped, Channel.shaped]; decide
  · simp only [State.sequencerStartsPolls]; decide
  · exact every_chan _ (fun x => x.org = x.so) rfl rfl rfl rfl
  · simp only [State.discreteZero]; decide
  · refine every_chan _ (·.pollConsistent _) rfl ?_ ?_ ?_ <;>
      (simp only [Channel.pollConsistent, Channel.measuring]; decide)

/-- A timer handler's step, and a write step that changes an input register. -/
theorem witness_stepWrites :
    (∃ s t : State, ¬ s.choosesReset ∧ step s = .next t ∧ t.tick ≠ s.tick) ∧
    ∃ s t : State, ¬ s.choosesReset ∧ step s = .next t ∧
      t.table.inputs[1]? ≠ s.table.inputs[1]? := by
  constructor
  · obtain ⟨t, ht, hp⟩ := onNext_exists
      (step { State.reset with tmrIrqPend := true, script := [.ev (.glue 1)] })
      (fun t => t.tick == 1) (by decide)
    refine ⟨_, t, choosesReset_cons _ (.ev (.glue 1)) [] rfl (by decide), ht, ?_⟩
    rw [show t.tick = 1 by simpa using hp]; decide
  · obtain ⟨t, ht, hp⟩ := onNext_exists
      (step { st (fun x => { x with phase := pWrite, val := 1 }) with script := [.ev (.chan 0)] })
      (fun t => t.table.inputs[1]? == some 1) (by decide)
    refine ⟨_, t, choosesReset_cons _ (.ev (.chan 0)) [] rfl (by decide), ht, ?_⟩
    rw [show t.table.inputs[1]? = some 1 by simpa using hp]; decide

end Sys2Proof.Tests
end

/-! SUPPORT. Which configurations run (rule R6), what a step runs, what every step keeps of the shape of a
state, and what the reset state meets. -/

namespace Sys2Proof.Machine

/-! ## Valid configurations (rule R6) -/

theorem chanInRange_iff (k : Config) (c : Nat) :
    k.chanInRange c = true ↔ k.coil c < k.n ∧ k.base c + 1 < k.n := by
  simp [Config.chanInRange]

/-- Two pairs of neighbours share no index exactly when one ends before the other begins. -/
theorem pairs_apart_iff (a b : Nat) :
    (a + 1 < b ∨ b + 1 < a) ↔
      ∀ i j : Nat, (i = a ∨ i = a + 1) → (j = b ∨ j = b + 1) → i ≠ j := by
  constructor
  · intro h i j hi hj
    omega
  · intro h
    have hlow := h a b (.inl rfl) (.inl rfl)
    have hright := h a (b + 1) (.inl rfl) (.inr rfl)
    have hleft := h (a + 1) b (.inr rfl) (.inl rfl)
    omega

theorem chansDisjoint_iff (k : Config) (c d : Nat) :
    k.chansDisjoint c d = true ↔ k.coil c ≠ k.coil d ∧
      ∀ i j : Nat, (i = k.base c ∨ i = k.base c + 1) →
        (j = k.base d ∨ j = k.base d + 1) → i ≠ j := by
  rw [← pairs_apart_iff]
  simp [Config.chansDisjoint]

/-- The two quantifiers of `Config.valid`: each channel alone, and each two channels. -/
theorem valid_iff (k : Config) :
    k.valid = true ↔ (∀ c, c < k.nch → k.chanInRange c = true) ∧
      ∀ c d, c < k.nch → d < k.nch → c ≠ d → k.chansDisjoint c d = true := by
  simp only [Config.valid, List.all_eq_true, List.mem_range, Bool.and_eq_true, Bool.or_eq_true,
    decide_eq_true_eq, or_iff_not_imp_left]
  constructor
  · intro h
    exact ⟨fun c hc => (h c hc).1, fun c d hc hd => (h c hc).2 d hd⟩
  · rintro ⟨hrange, hpairs⟩ c hc
    exact ⟨hrange c hc, fun d hd => hpairs c d hc hd⟩

theorem reference_valid : Config.reference.valid = true := by decide

/-! ## The operation that a step runs -/

/-- In a state that it takes, a step runs the chosen code's operation. -/
theorem step_operation (s s1 : State) (k : Code) (i : Instr) (ha : s.accepted)
    (hs : select s = .operation k s1) (hd : decode s1.cfg k = .ok i) : step s = exec i s1 := by
  rw [step_accepted s ha, hs]
  simp [runSelected, runCode, hd]

/-- `step_operation` where the choice is the script's first entry. -/
theorem step_item (s s1 : State) (it : Item) (rest : List Item) (k : Code) (i : Instr)
    (ha : s.accepted) (hs : s.script = it :: rest)
    (hi : selectItem it { s with script := rest } = .operation k s1)
    (hd : decode s1.cfg k = .ok i) : step s = exec i s1 :=
  step_operation s s1 k i ha ((select_cons s it rest hs).trans hi) hd

theorem noneBusy_iff (s : State) : noneBusy s = true ↔ ∀ x ∈ s.chans, x.phase = pIdle := by
  simp [noneBusy]

/-- A command presented on a free port stands on its lines (rule R190). -/
theorem present_eq (s : State) (w : Nat) (d : HostData) (h : s.hValid = false) :
    s.present w d =
      { s with
        hValid := true, hDone := false, hWdata := s.drivenData d,
        hCmd := hCmdOf s.cfg w, hAddr := hAddrOf s.cfg w, hCount := hCountOf s.cfg w } := by
  simp [State.present, h]

/-- A `HOST` entry on a free port runs the command at once where rule R107 calls it legal. -/
theorem selectHost_legal (w : Nat) (d : HostData) (s : State) (h : s.hValid = false)
    (hl : s.cfg.seqMode = .concurrent ∨ ∀ x ∈ s.chans, x.phase = pIdle) :
    selectHost w d s = .operation (.h w) (s.present w d) := by
  rw [← noneBusy_iff] at hl
  simp [selectHost, h, hl]

/-- The host's own step in `CONCURRENT` mode runs the command that waits on the port (rule R232). -/
theorem selectEvent_host (s : State) (h : s.hValid = true) (hm : s.cfg.seqMode = .concurrent) :
    selectEvent .host s = .operation (.h s.portWord) s := by
  simp [selectEvent, h, hm]

/-- `HostExec` runs the operation that the code on the port maps to (rules R94 and R191). -/
theorem hostExec_eq_exec (s : State) : hostExec s = exec (hostInstr s.hCmd s.hAddr s.hCount) s := by
  simp only [hostExec, hostInstr]
  generalize s.hCmd.toNat = code
  match code with
  | 0 | 1 | 2 | 3 | 4 | 5 | 6 | _ + 7 => rfl

/-! ## Properties of what a choice and an operation lead to -/

/-- If the outcome is a next state, that state has the property. -/
def NextHas (P : State → Prop) (o : Host.Outcome State Fault Refusal) : Prop :=
  ∀ t, o = .next t → P t

theorem NextHas.next {P : State → Prop} {t : State} (h : P t) : NextHas P (.next t) :=
  fun _ e => by cases e; exact h

theorem NextHas.refused {P : State → Prop} {r : Refusal} : NextHas P (.refused r) :=
  fun _ e => by cases e

theorem NextHas.ite {P : State → Prop} {p : Prop} [Decidable p]
    {a b : Host.Outcome State Fault Refusal} (ha : NextHas P a) (hb : NextHas P b) :
    NextHas P (if p then a else b) := by
  split
  · exact ha
  · exact hb

/-- The state that a choice leads to, if it is not refused, has the property. -/
def Selected.Has (P : State → Prop) : Selected → Prop
  | .operation _ s => P s
  | .done s => P s
  | .stop _ => True

/-- A property that every choice and every operation keep is kept by every step. -/
theorem step_keeps (P : State → Prop) (s : State) (hselect : (select s).Has P)
    (hexec : ∀ i s1, P s1 → NextHas P (exec i s1)) : NextHas P (step s) := by
  intro t h
  obtain ⟨-, ⟨k, s1, i, hs, -, hi⟩ | hs⟩ := step_next_cases s t h
  · rw [hs] at hselect
    exact hexec i s1 hselect t hi
  · rw [hs] at hselect
    exact hselect

/-! ## The shape of a state: the parts an operation writes -/

theorem State.shaped.tick_lt {s : State} (h : s.shaped) : s.tick < 2 ^ s.cfg.tickW := by
  obtain ⟨-, -, -, -, -, -, -, htick, -⟩ := h
  exact htick

theorem State.shaped.setRdata {s : State} (h : s.shaped) (f : Nat → Word16) :
    (s.setRdata f).shaped := by
  obtain ⟨ht, hn, hall, hck, hd, -, hrest⟩ := h
  exact ⟨ht, hn, hall, hck, hd, by simp, hrest⟩

theorem State.shaped.loseRdata {s : State} (h : s.shaped) : s.loseRdata.shaped :=
  h.setRdata (Config.freeRdata s.free)

theorem State.shaped.requestAll {s : State} (h : s.shaped) : s.requestAll.shaped := by
  obtain ⟨ht, hn, hall, hrest⟩ := h
  refine ⟨ht, by simpa using hn, fun x hx => ?_, hrest⟩
  obtain ⟨y, hy, rfl⟩ := List.mem_map.1 hx
  exact hall y hy

theorem State.shaped.driveClk {s : State} (h : s.shaped) (c : Nat) (v : Bool) :
    (s.driveClk c v).shaped := by
  obtain ⟨ht, hn, hall, hck, hrest⟩ := h
  exact ⟨ht, hn, hall, by simpa using hck, hrest⟩

theorem State.shaped.driveDat {s : State} (h : s.shaped) (c : Nat) (v : Bool) :
    (s.driveDat c v).shaped := by
  obtain ⟨ht, hn, hall, hck, hd, hrest⟩ := h
  exact ⟨ht, hn, hall, hck, by simpa using hd, hrest⟩

/-- The tick wraps at its width (log entry 21). -/
theorem State.shaped.takeTimerInterrupt {s : State} (h : s.shaped) :
    (takeTimerInterrupt s).shaped := by
  obtain ⟨ht, hn, hall, hck, hd, hr, hw, -, hrest⟩ := h
  exact ⟨ht, hn, hall, hck, hd, hr, hw, Nat.mod_lt _ (Nat.two_pow_pos _), hrest⟩

/-- `SEQ.SNAP` writes the tick, which fits, into `net_now`. -/
theorem State.shaped.snapshot {s : State} (h : s.shaped) :
    { s with netNow := s.tick }.shaped := by
  obtain ⟨ht, hn, hall, hck, hd, hr, hw, htick, -, hrest⟩ := h
  exact ⟨ht, hn, hall, hck, hd, hr, hw, htick, htick, hrest⟩

theorem hAddrOf_lt (k : Config) (w : Nat) : hAddrOf k w < 2 ^ k.addrW :=
  Nat.mod_lt _ (Nat.two_pow_pos _)

theorem hCountOf_lt (k : Config) (w : Nat) : hCountOf k w < 2 ^ k.countW :=
  Nat.mod_lt _ (Nat.two_pow_pos _)

theorem drivenData_length (s : State) (d : HostData) : (s.drivenData d).length = s.cfg.n := by
  simp [State.drivenData]

/-- A presented command has fields of their widths and `N` data lines (rules R32 and R96). -/
theorem State.shaped.present {s : State} (h : s.shaped) (w : Nat) (d : HostData) :
    (s.present w d).shaped := by
  cases hv : s.hValid with
  | true => simpa [State.present, hv] using h
  | false =>
    rw [present_eq s w d hv]
    obtain ⟨ht, hn, hall, hck, hd, hr, -, htick, hnow, -, -⟩ := h
    exact ⟨ht, hn, hall, hck, hd, hr, drivenData_length s d, htick, hnow, hAddrOf_lt s.cfg w,
      hCountOf_lt s.cfg w⟩

theorem shaped_channelReset (k : Config) : (Channel.reset k.nnib).shaped k :=
  ⟨List.length_replicate, Nat.two_pow_pos _, Nat.two_pow_pos _⟩

theorem shaped_tableReset (k : Config) : (Table.reset k).shaped k :=
  ⟨List.length_replicate, List.length_replicate, List.length_replicate, List.length_replicate⟩

theorem shaped_resetIn (k : Config) : (State.resetIn k).shaped := by
  refine ⟨shaped_tableReset k, List.length_replicate, fun x hx => ?_, List.length_replicate,
    List.length_replicate, List.length_replicate, List.length_replicate, Nat.two_pow_pos _,
    Nat.two_pow_pos _, Nat.two_pow_pos _, Nat.two_pow_pos _⟩
  rw [List.eq_of_mem_replicate hx]
  exact shaped_channelReset k

/-- Reset gives the block its shape; the lines that the environment drives keep theirs. -/
theorem State.shaped.applyReset {s : State} (h : s.shaped) : s.applyReset.shaped := by
  obtain ⟨-, -, -, hck, hd, -, hw, -, -, haddr, hcount⟩ := h
  obtain ⟨ht, hn, hall, -, -, hr, -, htick, hnow, -, -⟩ := shaped_resetIn s.cfg
  exact ⟨ht, hn, hall, hck, hd, hr, hw, htick, hnow, haddr, hcount⟩

/-- A failure writes codes of fixed width, and `h_rdata` of `N` elements. -/
theorem State.shaped.takeFailure {s : State} (h : s.shaped) (f : Failure) :
    (takeFailure f s).shaped := by
  cases f with
  | timeout c => exact h.updChan c _ id
  | invalidStart c => exact h.updChan c _ id
  | tableAccess => exact h.loseRdata
  | unsupported => exact h.loseRdata

/-! ## The shape of a state: the choices -/

theorem selectEvent_shaped (e : Event) (s : State) (h : s.shaped) :
    (selectEvent e s).Has State.shaped := by
  cases e with
  | chan c => exact h
  | seq => exact h
  | glue code => exact h
  | host =>
    simp only [selectEvent]
    split <;> exact h
  | present w d => exact h.present w d
  | clk c v => exact h.driveClk c v
  | dat c v => exact h.driveDat c v
  | netDone v => exact h
  | rst => exact h.applyReset

theorem selectItem_shaped (it : Item) (s : State) (h : s.shaped) :
    (selectItem it s).Has State.shaped := by
  cases it with
  | ev e => exact selectEvent_shaped e s h
  | start c =>
    simp only [selectItem, selectStart]
    split
    · exact h.updChan c _ id
    · trivial
  | host w d =>
    simp only [selectItem, selectHost]
    split
    · exact h
    · split <;> exact h.present w d
  | poll c => exact h
  | settle c =>
    simp only [selectItem, selectSettle]
    split <;> exact h
  | frame c w => exact h
  | value p => exact h

theorem select_shaped (s : State) (h : s.shaped) : (select s).Has State.shaped := by
  cases hs : s.script with
  | nil =>
    rw [select_nil s hs]
    exact selectEvent_shaped _ _ h
  | cons it rest =>
    rw [select_cons s it rest hs]
    exact selectItem_shaped it _ h

/-! ## The shape of a state: a channel's effects -/

/-- A received nibble is put in the place of an entry of the buffer. -/
theorem shaped_sampleRegs (k : Config) (b : Bool) (now : Nat) (x : Channel) (hx : x.shaped k)
    (hnow : now < 2 ^ k.tickW) : (sampleRegs k b now x).shaped k := by
  obtain ⟨hnib, hoss, -⟩ := hx
  simp only [sampleRegs]
  split
  · exact ⟨hnib, hoss, hnow⟩
  · exact ⟨by simpa using hnib, hoss, hnow⟩

section Effects

variable {s : State} (h : s.shaped) (c : Nat)

include h

theorem shaped_originStart : (originStart c s.tick s).shaped :=
  h.updChan c _ fun ⟨hnib, _, ht0⟩ => ⟨hnib, h.tick_lt, ht0⟩

theorem shaped_originExpire : (originExpire c s).shaped := h.updChan c _ id

theorem shaped_originWait : (originWait c s).shaped := h.updChan c _ id

theorem shaped_lowPass : (lowPass c s.tick s).shaped :=
  h.updChan c _ fun ⟨hnib, hoss, _⟩ => ⟨hnib, hoss, h.tick_lt⟩

theorem shaped_highSample (b : Bool) : (highSample c b s.tick s).shaped :=
  h.updChan c _ fun hx => shaped_sampleRegs s.cfg b s.tick _ hx h.tick_lt

theorem shaped_decodeFrame : (decodeFrame c s).shaped := h.updChan c _ id

end Effects

/-! ## The shape of a state: the operations -/

/-- A host command keeps the shape where its effect does; a failed one has no other effect. -/
theorem hostAdmit_shaped (a n : Nat) (f : State → State) (s : State) (h : s.shaped)
    (hf : (f s).shaped) : (hostAdmit a n f s).shaped := by
  simp only [hostAdmit]
  split
  · exact hf
  · exact h.takeFailure .tableAccess

/-- Every code of the host command map keeps the shape (rule R94). -/
theorem exec_hostInstr_shaped (cmd : BitVec 3) (a n : Nat) (s : State) (h : s.shaped) :
    NextHas State.shaped (exec (hostInstr cmd a n) s) := by
  have hread (sp : Space) : (hostAdmit a n (hostRead sp a n) s).shaped :=
    hostAdmit_shaped a n _ s h (h.setRdata _)
  have hwrite (sp : Space) : (hostAdmit a n (hostWrite sp a n) s).shaped :=
    hostAdmit_shaped a n _ s h (h.memWrite sp a _)
  have hillegal : (takeFailure .unsupported s).answered.shaped := h.takeFailure .unsupported
  simp only [hostInstr]
  split
  · exact .next (hread .coil)
  · exact .next (hread .disc)
  · exact .next (hread .hold)
  · exact .next (hread .ireg)
  · exact .next (hwrite .coil)
  · exact .next hillegal
  · exact .next (hwrite .hold)
  · exact .next hillegal

theorem seqChSerial_shaped (s : State) (h : s.shaped) : (seqChSerial s).shaped := by
  simp only [seqChSerial, nextChannel]
  split
  · split
    · exact h.updChan s.qc (fun x => { x with ps := true }) id
    · split <;> exact h
  · exact h

theorem seqChConcurrent_shaped (s : State) (h : s.shaped) : (seqChConcurrent s).shaped := by
  simp only [seqChConcurrent]
  split
  · split
    · exact h.requestAll
    · exact h
  · exact h

theorem execSeqCh_shaped (s : State) (h : s.shaped) : NextHas State.shaped (execSeqCh s) := by
  simp only [execSeqCh]
  split
  · exact .next (seqChSerial_shaped s h)
  · exact .next (seqChConcurrent_shaped s h)

/-- The host's slot runs the command on the port, or only passes (rule R231). -/
theorem execSeqHost_shaped (s : State) (h : s.shaped) : NextHas State.shaped (execSeqHost s) := by
  have hcommand := exec_hostInstr_shaped s.hCmd s.hAddr s.hCount s h
  rw [← hostExec_eq_exec] at hcommand
  simp only [execSeqHost]
  split
  · cases he : hostExec s with
    | next t =>
      have ht : t.shaped := hcommand t he
      exact .next ht
    | fault r => cases r
    | refused r => exact .refused
  · exact .next h

/-- Every operation keeps the shape, whether its condition holds or not. -/
theorem exec_shaped (i : Instr) (s : State) (h : s.shaped) :
    NextHas State.shaped (exec i s) := by
  cases i with
  | chPoll c => exact .ite (.next (h.updChan c _ id)) (.next h)
  | chRdcoil c => exact .ite (.next (h.updChan c _ id)) .refused
  | chOrigin c =>
    exact .ite (.next (shaped_originStart h c))
      (.ite (.next (shaped_originExpire h c)) (.next (shaped_originWait h c)))
  | orgStart c => exact .ite (.next (shaped_originStart h c)) (.next h)
  | orgExpire c => exact .ite (.next (shaped_originExpire h c)) (.next h)
  | orgWait c => exact .ite (.next (shaped_originWait h c)) (.next h)
  | chClrcoil c => exact .ite (.next ((h.memWrite .coil _ _).updChan c _ id)) .refused
  | chMstart c => exact .next (h.updChan c _ fun ⟨hnib, hoss, _⟩ => ⟨hnib, hoss, h.tick_lt⟩)
  | chWlow c =>
    exact .ite (.next (shaped_lowPass h c)) (.ite (.next (h.takeFailure (.timeout c))) (.next h))
  | wlowPass c => exact .ite (.next (shaped_lowPass h c)) (.next h)
  | wlowTimeout c => exact .ite (.next (h.takeFailure (.timeout c))) (.next h)
  | wlowStay c => exact .next h
  | chWhigh c =>
    exact .ite (.next (shaped_highSample h c _))
      (.ite (.next (h.takeFailure (.timeout c))) (.next h))
  | whighSample c => exact .ite (.next (shaped_highSample h c _)) (.next h)
  | whighTimeout c => exact .ite (.next (h.takeFailure (.timeout c))) (.next h)
  | whighStay c => exact .next h
  | chDecode c =>
    exact .ite (.next (shaped_decodeFrame h c)) (.next (h.takeFailure (.invalidStart c)))
  | decInvalid c => exact .ite (.next (h.takeFailure (.invalidStart c))) (.next h)
  | decOk c => exact .ite (.next (shaped_decodeFrame h c)) (.next h)
  | chWrite c => exact .ite (.next ((h.memWrite .ireg _ _).updChan c _ id)) .refused
  | hRdc a n => exact exec_hostInstr_shaped 0b000 a n s h
  | hRdd a n => exact exec_hostInstr_shaped 0b001 a n s h
  | hRdh a n => exact exec_hostInstr_shaped 0b010 a n s h
  | hRdi a n => exact exec_hostInstr_shaped 0b011 a n s h
  | hWrc a n => exact exec_hostInstr_shaped 0b100 a n s h
  | hIll5 a n => exact exec_hostInstr_shaped 0b101 a n s h
  | hWrh a n => exact exec_hostInstr_shaped 0b110 a n s h
  | hIll7 a n => exact exec_hostInstr_shaped 0b111 a n s h
  | tmrEvt => exact .next h
  | tickInc => exact .ite (.next h.takeTimerInterrupt) (.next h)
  | adpEvt => exact .next h
  | adpSet => exact .ite (.next h) (.next h)
  | seqSnap => exact .next h.snapshot
  | seqAdpclr => exact .next h
  | seqNetadv => exact .ite (.next h) (.next h)
  | seqCh => exact execSeqCh_shaped s h
  | seqHost => exact execSeqHost_shaped s h
  | frame c start sign d0 d1 d2 d3 d4 d5 dp rsv => exact .next h
  | value sgn expo frac => exact .refused

/-! ## The reset state -/

/-- After reset every index reads as an idle channel at its reset value, one that names no channel too. -/
theorem chan_resetIn_eq_reset (k : Config) (c : Nat) :
    ∃ m, (State.resetIn k).chan c = Channel.reset m := by
  rcases Nat.lt_or_ge c k.nch with hc | hc
  · exact ⟨k.nnib, chan_resetIn k c hc⟩
  · exact ⟨0, chan_absent _ c (by simpa [State.resetIn] using hc)⟩

theorem channelReset_legal (k : Config) (m : Nat) : (Channel.reset m).legal k := by
  simp [Channel.legal, Channel.reset]

/-- A channel at its reset value is in no poll. -/
theorem channelReset_pollConsistent (k : Config) (m : Nat) :
    (Channel.reset m).pollConsistent k := by
  simp [Channel.pollConsistent, Channel.measuring, Channel.reset]

theorem settled_resetIn (k : Config) (c : Nat) : settled (State.resetIn k) c = true := by
  obtain ⟨m, hm⟩ := chan_resetIn_eq_reset k c
  simp [settled, busy, hm, Channel.reset]

theorem resetIn_legal (k : Config) (h : 0 < k.nch) : (State.resetIn k).legal := by
  refine ⟨fun c => ?_, Nat.zero_le _, h, by simp [State.resetIn]⟩
  obtain ⟨m, hm⟩ := chan_resetIn_eq_reset k c
  rw [hm]
  exact channelReset_legal k m

theorem resetIn_serialExclusive (k : Config) : (State.resetIn k).serialExclusive := by
  intro _ c hc
  rw [settled_resetIn] at hc
  cases hc

theorem resetIn_sequencerStartsPolls (k : Config) : (State.resetIn k).sequencerStartsPolls :=
  fun it hit => by cases hit

theorem resetIn_originOutputsAgree (k : Config) : (State.resetIn k).originOutputsAgree := by
  intro c
  obtain ⟨m, hm⟩ := chan_resetIn_eq_reset k c
  rw [hm]
  rfl

theorem resetIn_pollConsistent (k : Config) (c : Nat) :
    ((State.resetIn k).chan c).pollConsistent k := by
  obtain ⟨m, hm⟩ := chan_resetIn_eq_reset k c
  rw [hm]
  exact channelReset_pollConsistent k m

theorem resetIn_accepted (k : Config) (h : k.valid = true) : (State.resetIn k).accepted := by
  refine ⟨h, (reservedCode_none _).2 ⟨fun x hx => ?_, Nat.zero_le _, by simp [State.resetIn]⟩⟩
  rw [List.eq_of_mem_replicate hx]
  exact Nat.zero_le _

/-! ## The statements -/

/-- Settles O54: each choice and each operation keeps the shape. -/
theorem everyStepKeepsTheShape : Obligations.EveryStepKeepsTheShape := by
  intro s t h
  exact step_keeps State.shaped s (select_shaped s h) exec_shaped t

/-- Settles O8: rule R6's two clauses are the two quantifiers of `Config.valid`. -/
theorem onlyValidConfigurationsRun : Obligations.OnlyValidConfigurationsRun := by
  refine ⟨fun k => ?_, reference_valid, step_invalid⟩
  simp only [valid_iff, chanInRange_iff, chansDisjoint_iff]

/-- Settles O6: in each case the entry's choice is the operation of the code that is held there. -/
theorem stepRunsTheDecodedOperation : Obligations.StepRunsTheDecodedOperation := by
  intro s rest i ha
  refine ⟨fun c hs hd => ?chan, fun hs hd => ?slot, fun e hs hd => ?glue,
    fun w d hs hd hfree hlegal => ?command, fun hs hwaits hmode hd => ?host,
    fun c w hs hd => ?frame⟩
  case chan => exact step_item s _ _ rest _ i ha hs rfl hd
  case slot => exact step_item s _ _ rest _ i ha hs rfl hd
  case glue => exact step_item s _ _ rest _ i ha hs rfl hd
  case command =>
    have hchoice := selectHost_legal w d { s with script := rest } hfree hlegal
    have hport := present_eq { s with script := rest } w d hfree
    exact step_item s _ _ rest _ i ha hs (hchoice.trans (congrArg _ hport)) hd
  case host =>
    exact step_item s _ _ rest _ i ha hs
      (selectEvent_host { s with script := rest } hwaits hmode) hd
  case frame => exact step_item s _ _ rest _ i ha hs rfl hd

/-- Settles O52: each invariant, by the reset value of the registers it speaks of. -/
theorem resetMeetsTheInvariants : Obligations.ResetMeetsTheInvariants :=
  ⟨reference_valid, fun k hk =>
    ⟨resetIn_legal k hk, resetIn_serialExclusive k, resetIn_sequencerStartsPolls k,
      resetIn_originOutputsAgree k, rfl, resetIn_pollConsistent k, shaped_resetIn k,
      resetIn_accepted k⟩⟩

end Sys2Proof.Machine

/-! SUPPORT. What a step can be and what each agent's operations leave alone, once; and from that the
statements about the state: what every step keeps, what only the timer handler and the reset write, and
which states are refused. -/

namespace Sys2Proof.Machine

/-! ## What a step can be -/

/-- The four things that a step which answers a next state can be: the operation of a code that a register
or a wire of the state holds, a step that leaves the block alone, the reset, or the test bench's `START`. -/
inductive StepCase (s t : State) : Prop
  | operation (s1 : State) (k : Code) (i : Instr) (hb : BlockEq s s1) (hk : CodeSource s1 k)
      (hd : decode s1.cfg k = .ok i) (hx : exec i s1 = .next t)
  | quiet (hb : BlockEq s t)
  | reset (hr : s.choosesReset) (s1 : State) (hb : BlockEq s s1) (ht : t = s1.applyReset)
  | start (c : Nat) (rest : List Item) (hs : s.script = .start c :: rest)
      (hc : settled s c = true)
      (ht : t = { s.updChan c (fun x => { x with ps := true }) with script := rest })

/-- States that agree on the block hold the same codes. -/
theorem CodeSource.of_blockEq {s s1 : State} {k : Code} (hk : CodeSource s k) (hb : BlockEq s s1) :
    CodeSource s1 k := by
  cases hk with
  | chan c => rw [← hb.chan c]; exact .chan c
  | slot => rw [← hb.q]; exact .slot
  | glue e => exact .glue e
  | host w => exact .host w
  | frame c w => exact .frame c w
  | value p => exact .value p

theorem stepCase_of_next {s t : State} (h : step s = .next t) : StepCase s t := by
  obtain ⟨-, ⟨k, s1, i, hs, hd, hx⟩ | hs⟩ := step_next_cases s t h
  · obtain ⟨hk, hb⟩ := select_operation s s1 k hs
    exact .operation s1 k i hb (hk.of_blockEq hb) hd hx
  · obtain hb | ⟨hr, s1, hb, ht⟩ | ⟨c, rest, hs, hc, ht⟩ := select_done s t hs
    · exact .quiet hb
    · exact .reset hr s1 hb ht
    · exact .start c rest hs hc ht

/-! ## What an operation leaves alone -/

/-- What an operation of channel `c` can write: its own registers and the table, of which never the
discrete inputs (rule R262). -/
structure ChannelFrame (c : Nat) (s t : State) : Prop where
  eq : t = { s with chans := t.chans, table := t.table }
  others : ∀ d, d ≠ c → t.chan d = s.chan d
  discrete : t.table.discrete = s.table.discrete

theorem ChannelFrame.refl (c : Nat) (s : State) : ChannelFrame c s s :=
  ⟨rfl, fun _ _ => rfl, rfl⟩

theorem channelFrame_updChan (c : Nat) (s : State) (f : Channel → Channel) :
    ChannelFrame c s (s.updChan c f) :=
  ⟨rfl, fun d hd => chan_updChan_ne s c d f hd, rfl⟩

theorem channelFrame_memWrite (c : Nat) (s : State) (sp : Space) (i : Nat) (vs : List Word16)
    (f : Channel → Channel) (h : sp ≠ .disc) :
    ChannelFrame c s ((s.memWrite sp i vs).updChan c f) :=
  ⟨rfl, fun d hd => chan_updChan_ne _ c d f hd, memWrite_discrete _ sp i vs h⟩

/-- Every operation of channel `c`, the outcome rows among them, keeps to its frame. -/
theorem exec_channelFrame {i : Instr} {c : Nat} (hi : channelOf i = some c) (s : State) :
    NextHas (ChannelFrame c s) (exec i s) := by
  have hsame : NextHas (ChannelFrame c s) (.next s) := .next (.refl c s)
  have hupd (f : Channel → Channel) : NextHas (ChannelFrame c s) (.next (s.updChan c f)) :=
    .next (channelFrame_updChan c s f)
  have htimeout : NextHas (ChannelFrame c s) (.next (takeFailure (.timeout c) s)) := by
    rw [takeFailure_timeout]
    exact hupd _
  have hinvalid : NextHas (ChannelFrame c s) (.next (takeFailure (.invalidStart c) s)) := by
    rw [takeFailure_invalidStart]
    exact hupd _
  have hwait : NextHas (ChannelFrame c s) (.next (originWait c s)) :=
    hupd fun x => { x with phase := pIdle }
  cases i <;> cases hi
  case chPoll => exact .ite (hupd _) hsame
  case chRdcoil => exact .ite (hupd _) .refused
  case chOrigin => exact .ite (hupd _) (.ite (hupd _) hwait)
  case orgStart => exact .ite (hupd _) hsame
  case orgExpire => exact .ite (hupd _) hsame
  case orgWait => exact .ite hwait hsame
  case chClrcoil =>
    exact .ite (.next (channelFrame_memWrite c s .coil _ _ _ (by decide))) .refused
  case chMstart => exact hupd _
  case chWlow => exact .ite (hupd _) (.ite htimeout hsame)
  case wlowPass => exact .ite (hupd _) hsame
  case wlowTimeout => exact .ite htimeout hsame
  case wlowStay => exact hsame
  case chWhigh => exact .ite (hupd _) (.ite htimeout hsame)
  case whighSample => exact .ite (hupd _) hsame
  case whighTimeout => exact .ite htimeout hsame
  case whighStay => exact hsame
  case chDecode => exact .ite (hupd _) hinvalid
  case decInvalid => exact .ite hinvalid hsame
  case decOk => exact .ite (hupd _) hsame
  case chWrite =>
    exact .ite (.next (channelFrame_memWrite c s .ireg _ _ _ (by decide))) .refused

/-- A command that is refused as unsupported changes only the response. -/
theorem hostFrame_unsupported (s : State) : HostFrame s (takeFailure .unsupported s).answered :=
  ⟨rfl, rfl, rfl⟩

/-- Every code of the host command map keeps to the host's frame (rules R94 and R204). -/
theorem exec_hostInstr_frame (cmd : BitVec 3) (a n : Nat) (s : State) :
    NextHas (HostFrame s) (exec (hostInstr cmd a n) s) := by
  have hread (sp : Space) : HostFrame s (hostAdmit a n (hostRead sp a n) s) :=
    hostFrame_admit a n _ s (hostFrame_read sp a n s)
  have hwrite (sp : Space) (h1 : sp ≠ .disc) (h2 : sp ≠ .ireg) :
      HostFrame s (hostAdmit a n (hostWrite sp a n) s) :=
    hostFrame_admit a n _ s (hostFrame_write sp a n s h1 h2)
  simp only [hostInstr]
  split
  · exact .next (hread .coil)
  · exact .next (hread .disc)
  · exact .next (hread .hold)
  · exact .next (hread .ireg)
  · exact .next (hwrite .coil (by decide) (by decide))
  · exact .next (hostFrame_unsupported s)
  · exact .next (hwrite .hold (by decide) (by decide))
  · exact .next (hostFrame_unsupported s)

/-- A host command is answered with one of the three codes in use (rules R191 and R243). -/
theorem exec_hostInstr_status (cmd : BitVec 3) (a n : Nat) (s : State) :
    NextHas (fun t => t.hStatus ≠ 3) (exec (hostInstr cmd a n) s) := by
  have hadmit (f : State → State) : (hostAdmit a n f s).hStatus ≠ 3 := by
    simp only [hostAdmit]
    split
    · exact (by decide : hsOk ≠ 3)
    · exact (by decide : hsTableAccessFailure ≠ 3)
  have hillegal : (takeFailure .unsupported s).answered.hStatus ≠ 3 :=
    (by decide : hsUnsupported ≠ 3)
  simp only [hostInstr]
  split
  case h_6 => exact .next hillegal
  case h_8 => exact .next hillegal
  all_goals exact .next (hadmit _)

/-- The host's slot passes with nothing else changed, or after the command on the port (rule R231). -/
theorem execSeqHost_next {s t : State} (h : execSeqHost s = .next t) :
    t = { s with q := qSnap } ∨
      ∃ u, exec (hostInstr s.hCmd s.hAddr s.hCount) s = .next u ∧
        t = { u with hDone := true, q := qSnap } := by
  simp only [execSeqHost] at h
  split at h
  · cases hx : hostExec s with
    | next u =>
      rw [hx] at h
      cases h
      exact .inr ⟨u, (hostExec_eq_exec s).symm.trans hx, rfl⟩
    | fault r => cases r
    | refused r => rw [hx] at h; cases h
  · cases h
    exact .inl rfl

/-- A word of the H format decodes to a row of the host command map. -/
theorem decode_host {k : Config} {w : Nat} {i : Instr} (h : decode k (.h w) = .ok i) :
    i = hostInstr (hCmdOf k w) (hAddrOf k w) (hCountOf k w) := by
  cases h
  rfl

/-- What no operation but the timer handler writes: configuration, tick and discrete inputs. -/
structure Untouched (s t : State) : Prop where
  cfg : t.cfg = s.cfg
  tick : t.tick = s.tick
  discrete : t.table.discrete = s.table.discrete

theorem ChannelFrame.untouched {c : Nat} {s t : State} (h : ChannelFrame c s t) : Untouched s t :=
  ⟨by rw [h.eq], by rw [h.eq], h.discrete⟩

theorem HostFrame.untouched {s t : State} (h : HostFrame s t) : Untouched s t :=
  ⟨by rw [h.eq], by rw [h.eq], h.discrete⟩

theorem BlockEq.untouched {s t : State} (h : BlockEq s t) : Untouched s t :=
  ⟨h.cfg, h.tick, by rw [h.table]⟩

theorem Untouched.trans {s t u : State} (h : Untouched s t) (k : Untouched t u) : Untouched s u :=
  ⟨k.cfg.trans h.cfg, k.tick.trans h.tick, k.discrete.trans h.discrete⟩

/-- `SEQ.CH` writes request flags and the Sequencer's registers only (rules R230 and R232). -/
theorem execSeqCh_frame {s t : State} (h : execSeqCh s = .next t) :
    t = { s with chans := t.chans, q := t.q, qc := t.qc, qs := t.qs } := by
  simp only [execSeqCh] at h
  split at h
  · cases h
    simp only [seqChSerial, nextChannel]
    split
    · split
      · rfl
      · split <;> rfl
    · rfl
  · cases h
    simp only [seqChConcurrent]
    split
    · split <;> rfl
    · rfl

/-- Every operation but the timer handler leaves configuration, tick and discrete inputs alone. -/
theorem exec_untouched (i : Instr) (s : State) (hi : i ≠ .tickInc) :
    NextHas (Untouched s) (exec i s) := by
  have hhost (cmd : BitVec 3) (a n : Nat) : NextHas (Untouched s) (exec (hostInstr cmd a n) s) :=
    fun t ht => (exec_hostInstr_frame cmd a n s t ht).untouched
  cases hc : channelOf i with
  | some c => exact fun t ht => (exec_channelFrame hc s t ht).untouched
  | none =>
    cases i with
    | hRdc a n => exact hhost 0b000 a n
    | hRdd a n => exact hhost 0b001 a n
    | hRdh a n => exact hhost 0b010 a n
    | hRdi a n => exact hhost 0b011 a n
    | hWrc a n => exact hhost 0b100 a n
    | hIll5 a n => exact hhost 0b101 a n
    | hWrh a n => exact hhost 0b110 a n
    | hIll7 a n => exact hhost 0b111 a n
    | tmrEvt => exact .next ⟨rfl, rfl, rfl⟩
    | tickInc => exact absurd rfl hi
    | adpEvt => exact .next ⟨rfl, rfl, rfl⟩
    | adpSet => exact .ite (.next ⟨rfl, rfl, rfl⟩) (.next ⟨rfl, rfl, rfl⟩)
    | seqSnap => exact .next ⟨rfl, rfl, rfl⟩
    | seqAdpclr => exact .next ⟨rfl, rfl, rfl⟩
    | seqNetadv => exact .ite (.next ⟨rfl, rfl, rfl⟩) (.next ⟨rfl, rfl, rfl⟩)
    | seqCh =>
      intro t ht
      have hframe := execSeqCh_frame ht
      exact ⟨by rw [hframe], by rw [hframe], by rw [hframe]⟩
    | seqHost =>
      intro t ht
      obtain rfl | ⟨u, hu, rfl⟩ := execSeqHost_next ht
      · exact ⟨rfl, rfl, rfl⟩
      · obtain ⟨hcfg, htick, hdisc⟩ := hhost _ _ _ u hu
        exact ⟨hcfg, htick, hdisc⟩
    | frame => exact .next ⟨rfl, rfl, rfl⟩
    | value => exact .refused
    | _ => cases hc

/-- The timer handler counts where its latch is set (rule R217). -/
theorem exec_tickInc_pending (s : State) (h : s.tmrIrqPend = true) :
    exec .tickInc s = .next (takeTimerInterrupt s) := by
  simp [exec, execTickInc, h]

/-- The timer handler has no step where its latch is clear (rule R217). -/
theorem exec_tickInc_clear (s : State) (h : s.tmrIrqPend = false) :
    exec .tickInc s = .next s := by
  simp [exec, execTickInc, h]

/-- An operation that writes configuration, tick or discrete inputs is the timer handler, with its latch
set. -/
theorem exec_untouched_or_timer {i : Instr} {s t : State} (hx : exec i s = .next t) :
    Untouched s t ∨ (s.tmrIrqPend = true ∧ t = takeTimerInterrupt s) := by
  by_cases hi : i = .tickInc
  · subst hi
    cases hp : s.tmrIrqPend with
    | true =>
      rw [exec_tickInc_pending s hp] at hx
      cases hx
      exact .inr ⟨rfl, rfl⟩
    | false =>
      rw [exec_tickInc_clear s hp] at hx
      cases hx
      exact .inl ⟨rfl, rfl, rfl⟩
  · exact .inl (exec_untouched i s hi t hx)

/-! ## Legal codes (rules R38 and R243) -/

/-- A channel whose request flag is clear is legal if its phase and `ni` are. -/
theorem Channel.legal_of_unrequested {k : Config} {x : Channel} (hphase : x.phase.toNat ≤ 8)
    (hni : x.ni.toNat ≤ k.nnib - 1) (hps : x.ps = false) : x.legal k :=
  ⟨hphase, hni, fun h => by rw [hps] at h; cases h⟩

/-- A request waits only while the channel is idle. -/
theorem Channel.legal.unrequested {k : Config} {x : Channel} (h : x.legal k)
    (hp : x.phase ≠ pIdle) : x.ps = false := by
  obtain ⟨-, -, hps⟩ := h
  cases hx : x.ps with
  | false => rfl
  | true => exact absurd (hps hx) hp

theorem State.legal.updChan {s : State} (h : s.legal) (c : Nat) (f : Channel → Channel)
    (hf : (f (s.chan c)).legal s.cfg) : (s.updChan c f).legal := by
  obtain ⟨hchan, hrest⟩ := h
  exact ⟨forall_chan_updChan s c f (·.legal s.cfg) hchan hf, hrest⟩

/-- Legality is a property of the block's elements. -/
theorem State.legal.of_blockEq {s t : State} (h : s.legal) (hb : BlockEq s t) : t.legal := by
  obtain ⟨hchan, hrest⟩ := h
  refine ⟨fun c => ?_, ?_⟩
  · rw [hb.chan c, hb.cfg]
    exact hchan c
  · rw [hb.q, hb.qc, hb.hStatus, hb.cfg]
    exact hrest

theorem settled_iff (s : State) (c : Nat) :
    settled s c = true ↔ (s.chan c).phase = pIdle ∧ (s.chan c).ps = false := by
  simp [settled, busy]

/-- A settled channel may be requested (rules R121 and R230). -/
theorem State.legal.request {s : State} (h : s.legal) (c : Nat) (hc : settled s c = true) :
    (s.updChan c fun x => { x with ps := true }).legal := by
  obtain ⟨hphase, hni, -⟩ := h.1 c
  exact h.updChan c _ ⟨hphase, hni, fun _ => ((settled_iff s c).1 hc).1⟩

theorem State.legal.requestAll {s : State} (h : s.legal) (ha : allSettled s = true) :
    s.requestAll.legal := by
  obtain ⟨hchan, hrest⟩ := h
  refine ⟨fun c => ?_, hrest⟩
  rcases Nat.lt_or_ge c s.chans.length with hc | hc
  · obtain ⟨hphase, hni, -⟩ := hchan c
    have hidle : (s.chan c).phase = pIdle := by
      simp only [allSettled, List.all_eq_true, Bool.and_eq_true, beq_iff_eq] at ha
      exact (ha _ (chan_mem s c hc)).1
    rw [chan_requestAll s c hc]
    exact ⟨hphase, hni, fun _ => hidle⟩
  · rw [chan_absent s.requestAll c (by simpa using hc)]
    exact channelReset_legal s.cfg 0

/-- A received bit leads to a phase in use, and `ni` counts up to the last nibble's index only. -/
theorem sampleRegs_legal (k : Config) (b : Bool) (now : Nat) (x : Channel)
    (hni : x.ni.toNat ≤ k.nnib - 1) (hps : x.ps = false) : (sampleRegs k b now x).legal k := by
  simp only [sampleRegs]
  split
  · exact Channel.legal_of_unrequested (by decide : pWlow.toNat ≤ 8) hni hps
  · refine Channel.legal_of_unrequested ?_ ?_ hps
    · dsimp only
      split <;> decide
    · dsimp only
      split
      · bv_omega
      · exact hni

/-- A step within a poll: the request flag, clear before it, stays as it is. -/
theorem State.legal.move {s : State} (h : s.legal) (c : Nat) (f : Channel → Channel)
    (hp : (s.chan c).phase ≠ pIdle) (hphase : (f (s.chan c)).phase.toNat ≤ 8)
    (hni : (f (s.chan c)).ni.toNat ≤ s.cfg.nnib - 1)
    (hps : (f (s.chan c)).ps = (s.chan c).ps) : (s.updChan c f).legal :=
  h.updChan c f (Channel.legal_of_unrequested hphase hni (hps.trans ((h.1 c).unrequested hp)))

/-- The end of a poll: an idle channel may be requested or not. -/
theorem State.legal.toIdle {s : State} (h : s.legal) (c : Nat) (f : Channel → Channel)
    (hphase : (f (s.chan c)).phase = pIdle) (hni : (f (s.chan c)).ni = (s.chan c).ni) :
    (s.updChan c f).legal := by
  obtain ⟨-, hle, -⟩ := h.1 c
  refine h.updChan c f ⟨?_, ?_, fun _ => hphase⟩
  · rw [hphase]
    exact Nat.zero_le 8
  · rw [hni]
    exact hle

/-- A failure leaves a channel idle, or answers a status in use (rules R243 and R248). -/
theorem State.legal.takeFailure {s : State} (h : s.legal) (f : Failure) :
    (takeFailure f s).legal := by
  cases f with
  | timeout c => exact h.toIdle c (fun x => { x with res := resTimeout, phase := pIdle }) rfl rfl
  | invalidStart c =>
    exact h.toIdle c (fun x => { x with res := resInvalidStart, phase := pIdle }) rfl rfl
  | tableAccess =>
    obtain ⟨hchan, hq, hqc, -⟩ := h
    exact ⟨hchan, hq, hqc, (by decide : hsTableAccessFailure ≠ 3)⟩
  | unsupported =>
    obtain ⟨hchan, hq, hqc, -⟩ := h
    exact ⟨hchan, hq, hqc, (by decide : hsUnsupported ≠ 3)⟩

/-- The operation that a channel's phase register selects keeps the codes legal. -/
theorem exec_phase_legal (c : Nat) (s : State) (i : Instr) (h : s.legal)
    (hd : decode s.cfg (.s c (s.chan c).phase) = .ok i) : NextHas State.legal (exec i s) := by
  obtain ⟨-, hni, -⟩ := h.1 c
  obtain ⟨hp, rfl⟩ | ⟨hp, rfl⟩ | ⟨hp, rfl⟩ | ⟨hp, rfl⟩ | ⟨hp, rfl⟩ | ⟨hp, rfl⟩ | ⟨hp, rfl⟩ |
    ⟨hp, rfl⟩ | ⟨hp, rfl⟩ := decodeS_cases _ _ _ _ hd
  case inl =>
    exact .ite (.next (h.updChan c _
      (Channel.legal_of_unrequested (by decide : pRdcoil.toNat ≤ 8) hni rfl))) (.next h)
  all_goals have hbusy : (s.chan c).phase ≠ pIdle := by rw [hp]; decide
  · -- `CH.RDCOIL`
    refine .ite (.next (h.move c _ hbusy ?_ hni rfl)) .refused
    dsimp only
    split
    · decide
    · split <;> decide
  · -- `CH.ORIGIN`
    exact .ite (.next (h.toIdle c _ rfl rfl))
      (.ite (.next (h.move c _ hbusy (by decide : pClrcoil.toNat ≤ 8) hni rfl))
        (.next (h.toIdle c (fun x => { x with phase := pIdle }) rfl rfl)))
  · -- `CH.CLRCOIL`
    exact .ite (.next (State.legal.toIdle (s := s.memWrite _ _ _) h c _ rfl rfl)) .refused
  · -- `CH.MSTART`
    exact .next (h.move c _ hbusy (by decide : pWlow.toNat ≤ 8) (Nat.zero_le _) rfl)
  · -- `CH.WLOW`
    exact .ite (.next (h.move c _ hbusy (by decide : pWhigh.toNat ≤ 8) hni rfl))
      (.ite (.next (h.takeFailure (.timeout c))) (.next h))
  · -- `CH.WHIGH`
    exact .ite (.next (h.updChan c _ (sampleRegs_legal _ _ _ _ hni ((h.1 c).unrequested hbusy))))
      (.ite (.next (h.takeFailure (.timeout c))) (.next h))
  · -- `CH.DECODE`
    exact .ite (.next (h.move c _ hbusy (by decide : pWrite.toNat ≤ 8) hni rfl))
      (.next (h.takeFailure (.invalidStart c)))
  · -- `CH.WRITE`
    exact .ite (.next (State.legal.toIdle (s := s.memWrite _ _ _) h c _ rfl rfl)) .refused

/-- A host command writes of the codes only `h_status`, and a code in use. -/
theorem exec_hostInstr_legal (cmd : BitVec 3) (a n : Nat) (s : State) (h : s.legal) :
    NextHas State.legal (exec (hostInstr cmd a n) s) := by
  intro t ht
  have hframe := (exec_hostInstr_frame cmd a n s t ht).eq
  have hstatus := exec_hostInstr_status cmd a n s t ht
  obtain ⟨hchan, hq, hqc, -⟩ := h
  rw [hframe]
  exact ⟨hchan, hq, hqc, hstatus⟩

theorem seqChSerial_legal (s : State) (h : s.legal) : (seqChSerial s).legal := by
  simp only [seqChSerial, nextChannel]
  split
  next hsettled =>
    split
    · exact h.request s.qc hsettled
    · obtain ⟨hchan, hq, hqc, hstatus⟩ := h
      split
      next hlast => exact ⟨hchan, hq, Nat.add_lt_of_lt_sub hlast, hstatus⟩
      next => exact ⟨hchan, (by decide : qHost.toNat ≤ 4), hqc, hstatus⟩
  next => exact h

theorem seqChConcurrent_legal (s : State) (h : s.legal) : (seqChConcurrent s).legal := by
  simp only [seqChConcurrent]
  split
  next hsettled =>
    split
    · exact h.requestAll hsettled
    · obtain ⟨hchan, -, hrest⟩ := h
      exact ⟨hchan, (by decide : qHost.toNat ≤ 4), hrest⟩
  next => exact h

/-- The operation that the slot register selects keeps the codes legal. -/
theorem exec_slot_legal (s : State) (i : Instr) (h : s.legal)
    (hd : decode s.cfg (.q s.q) = .ok i) : NextHas State.legal (exec i s) := by
  have hslot (q : BitVec 3) (hq : q.toNat ≤ 4) (t : State) (ht : t.legal) :
      { t with q := q }.legal := by
    obtain ⟨hchan, -, hrest⟩ := ht
    exact ⟨hchan, hq, hrest⟩
  obtain ⟨-, rfl⟩ | ⟨-, rfl⟩ | ⟨-, rfl⟩ | ⟨-, rfl⟩ | ⟨-, rfl⟩ := decodeQ_cases _ _ _ hd
  · exact .next (hslot qAdpclr (by decide) s h)
  · exact .next (hslot qNetadv (by decide) s h)
  · obtain ⟨hchan, hq, hqc, hstatus⟩ := h
    exact .ite (.next ⟨hchan, (by decide : qCh.toNat ≤ 4), Nat.zero_lt_of_lt hqc, hstatus⟩)
      (.next ⟨hchan, hq, hqc, hstatus⟩)
  · simp only [exec, execSeqCh]
    split
    · exact .next (seqChSerial_legal s h)
    · exact .next (seqChConcurrent_legal s h)
  · intro t ht
    obtain rfl | ⟨u, hu, rfl⟩ := execSeqHost_next ht
    · exact hslot qSnap (by decide) s h
    · exact hslot qSnap (by decide) u (exec_hostInstr_legal _ _ _ s h u hu)

/-- Every operation that a code of the state selects keeps the codes legal. -/
theorem exec_legal {s : State} {k : Code} {i : Instr} (h : s.legal) (hk : CodeSource s k)
    (hd : decode s.cfg k = .ok i) : NextHas State.legal (exec i s) := by
  cases hk with
  | chan c => exact exec_phase_legal c s i h hd
  | slot => exact exec_slot_legal s i h hd
  | glue e =>
    obtain rfl | rfl | rfl | rfl := decodeE_cases _ _ _ hd
    · exact .next h
    · exact .ite (.next h) (.next h)
    · exact .next h
    · exact .ite (.next h) (.next h)
  | host w =>
    rw [decode_host hd]
    exact exec_hostInstr_legal _ _ _ s h
  | frame c w =>
    cases hd
    exact .next h
  | value p =>
    cases hd
    exact .refused

/-- Reset leaves legal codes in a configuration with a channel (rule R39). -/
theorem State.legal.applyReset {s : State} (h : s.legal) : s.applyReset.legal := by
  obtain ⟨-, -, hqc, -⟩ := h
  exact resetIn_legal s.cfg (Nat.zero_lt_of_lt hqc)

/-- Settles O53, by the four things that a step can be. -/
theorem everyStepKeepsTheCodesLegal : Obligations.EveryStepKeepsTheCodesLegal := by
  intro s t h hstep
  cases stepCase_of_next hstep with
  | operation s1 k i hb hk hd hx => exact exec_legal (h.of_blockEq hb) hk hd t hx
  | quiet hb => exact h.of_blockEq hb
  | reset _ s1 hb ht =>
    rw [ht]
    exact (h.of_blockEq hb).applyReset
  | start c rest _ hc ht =>
    rw [ht]
    exact h.request c hc

/-! ## One channel at a time (rules R38 and R233) -/

theorem settled_congr {s t : State} {c : Nat} (h : t.chan c = s.chan c) :
    settled t c = settled s c := by
  simp [settled, busy, h]

/-- The exclusion stays while the Sequencer's registers do and no settled channel is disturbed. -/
theorem State.serialExclusive.mono {s t : State} (h : s.serialExclusive) (hcfg : t.cfg = s.cfg)
    (hq : t.q = s.q) (hqs : t.qs = s.qs) (hqc : t.qc = s.qc)
    (hc : ∀ c, settled s c = true → settled t c = true) : t.serialExclusive := by
  intro hm c hu
  rw [hq, hqs, hqc]
  rw [hcfg] at hm
  refine h hm c ?_
  by_contra hs
  rw [hc c (by simpa using hs)] at hu
  cases hu

theorem State.serialExclusive.of_blockEq {s t : State} (h : s.serialExclusive)
    (hb : BlockEq s t) : t.serialExclusive :=
  h.mono hb.cfg hb.q hb.qs hb.qc fun c hc => (settled_congr (hb.chan c)).trans hc

/-- Outside the slot `Q_CH` every channel is settled. -/
theorem State.serialExclusive.settled_of_slot {s : State} (h : s.serialExclusive)
    (hm : s.cfg.seqMode = .serial) (hq : s.q ≠ qCh) (c : Nat) : settled s c = true := by
  by_contra hu
  obtain ⟨hch, -, -⟩ := h hm c (by simpa using hu)
  exact hq hch

/-- While the Sequencer's own channel is settled every channel is. -/
theorem State.serialExclusive.settled_of_own {s : State} (h : s.serialExclusive)
    (hm : s.cfg.seqMode = .serial) (hown : settled s s.qc = true) (c : Nat) :
    settled s c = true := by
  by_contra hu
  obtain ⟨-, -, hqc⟩ := h hm c (by simpa using hu)
  rw [hqc] at hown
  exact hu hown

/-- While every channel is settled, a step of the Sequencer that leaves the channels alone keeps the
exclusion, whatever slot it goes to. -/
theorem serialExclusive_of_settled {s t : State}
    (hall : s.cfg.seqMode = .serial → ∀ c, settled s c = true) (hcfg : t.cfg = s.cfg)
    (hchans : t.chans = s.chans) : t.serialExclusive := by
  intro hm c hu
  rw [hcfg] at hm
  rw [settled_congr (chan_congr s t hchans c), hall hm c] at hu
  cases hu

/-- While every channel is settled, the request of `qc` in `Q_CH` makes it the only busy one. -/
theorem serialExclusive_of_request {s : State}
    (hall : s.cfg.seqMode = .serial → ∀ c, settled s c = true) (hq : s.q = qCh) :
    { s.updChan s.qc (fun x => { x with ps := true }) with qs := true }.serialExclusive := by
  intro hm c hu
  refine ⟨hq, rfl, ?_⟩
  by_contra hne
  have hother : settled (s.updChan s.qc fun x => { x with ps := true }) c = settled s c :=
    settled_congr (chan_updChan_ne s s.qc c _ (Ne.symm hne))
  rw [hall hm c] at hother
  exact absurd (hother.symm.trans hu) (by decide)

theorem channelOf_decode_phase {k : Config} {c : Nat} {p : BitVec 4} {i : Instr}
    (h : decode k (.s c p) = .ok i) : channelOf i = some c := by
  obtain ⟨-, rfl⟩ | ⟨-, rfl⟩ | ⟨-, rfl⟩ | ⟨-, rfl⟩ | ⟨-, rfl⟩ | ⟨-, rfl⟩ | ⟨-, rfl⟩ | ⟨-, rfl⟩ |
    ⟨-, rfl⟩ := decodeS_cases _ _ _ _ h <;> rfl

/-- The operation of a phase register disturbs no settled channel: a settled channel's is `CH.POLL`
without a request, and no operation reaches another channel. -/
theorem settled_exec_phase {c : Nat} {s t : State} {i : Instr}
    (hd : decode s.cfg (.s c (s.chan c).phase) = .ok i) (hx : exec i s = .next t) (d : Nat)
    (hs : settled s d = true) : settled t d = true := by
  by_cases hdc : d = c
  · subst hdc
    obtain ⟨hp, hps⟩ := (settled_iff s d).1 hs
    rw [hp] at hd
    cases hd
    have hnostep : exec (.chPoll d) s = .next s := by simp [exec, execChPoll, hps]
    rw [hnostep] at hx
    cases hx
    exact hs
  · have hframe := exec_channelFrame (channelOf_decode_phase hd) s t hx
    exact (settled_congr (hframe.others d hdc)).trans hs

theorem exec_phase_exclusive {c : Nat} {s : State} {i : Instr} (h : s.serialExclusive)
    (hd : decode s.cfg (.s c (s.chan c).phase) = .ok i) :
    NextHas State.serialExclusive (exec i s) := by
  intro t hx
  have hframe := (exec_channelFrame (channelOf_decode_phase hd) s t hx).eq
  exact h.mono (by rw [hframe]) (by rw [hframe]) (by rw [hframe]) (by rw [hframe])
    (settled_exec_phase hd hx)

theorem exec_hostInstr_exclusive (cmd : BitVec 3) (a n : Nat) (s : State)
    (h : s.serialExclusive) : NextHas State.serialExclusive (exec (hostInstr cmd a n) s) := by
  intro t hx
  have hframe := (exec_hostInstr_frame cmd a n s t hx).eq
  have hchans : t.chans = s.chans := by rw [hframe]
  exact h.mono (by rw [hframe]) (by rw [hframe]) (by rw [hframe]) (by rw [hframe])
    fun c hc => (settled_congr (chan_congr s t hchans c)).trans hc

/-- `SEQ.CH` requests its channel, or goes on from it, only while that channel is settled. -/
theorem seqChSerial_exclusive (s : State) (h : s.serialExclusive) (hq : s.q = qCh) :
    (seqChSerial s).serialExclusive := by
  simp only [seqChSerial, nextChannel]
  split
  next hown =>
    have hall (hm : s.cfg.seqMode = .serial) : ∀ c, settled s c = true :=
      h.settled_of_own hm hown
    split
    · exact serialExclusive_of_request hall hq
    · split <;> exact serialExclusive_of_settled hall rfl rfl
  next => exact h

/-- The operation of the slot register keeps the exclusion. -/
theorem exec_slot_exclusive {s : State} {i : Instr} (h : s.serialExclusive)
    (hd : decode s.cfg (.q s.q) = .ok i) : NextHas State.serialExclusive (exec i s) := by
  have hleave (hq : s.q ≠ qCh) (t : State) (hcfg : t.cfg = s.cfg) (hchans : t.chans = s.chans) :
      t.serialExclusive :=
    serialExclusive_of_settled (fun hm => h.settled_of_slot hm hq) hcfg hchans
  obtain ⟨hq, rfl⟩ | ⟨hq, rfl⟩ | ⟨hq, rfl⟩ | ⟨hq, rfl⟩ | ⟨hq, rfl⟩ := decodeQ_cases _ _ _ hd
  case inr.inr.inr.inl =>
    simp only [exec, execSeqCh]
    split
    next => exact .next (seqChSerial_exclusive s h hq)
    next hm =>
      have hframe : execSeqCh s = .next (seqChConcurrent s) := by rw [execSeqCh, hm]
      have hcfg : (seqChConcurrent s).cfg = s.cfg := by rw [execSeqCh_frame hframe]
      refine .next fun hserial => ?_
      rw [hcfg, hm] at hserial
      cases hserial
  all_goals have hne : s.q ≠ qCh := by rw [hq]; decide
  · exact .next (hleave hne _ rfl rfl)
  · exact .next (hleave hne _ rfl rfl)
  · exact .ite (.next (hleave hne _ rfl rfl)) (.next h)
  · intro t ht
    obtain rfl | ⟨u, hu, rfl⟩ := execSeqHost_next ht
    · exact hleave hne _ rfl rfl
    · have hframe := (exec_hostInstr_frame _ _ _ s u hu).eq
      exact hleave hne _ (by rw [hframe]) (by rw [hframe])

/-- Every operation that a code of the state selects keeps the exclusion. -/
theorem exec_exclusive {s : State} {k : Code} {i : Instr} (h : s.serialExclusive)
    (hk : CodeSource s k) (hd : decode s.cfg k = .ok i) :
    NextHas State.serialExclusive (exec i s) := by
  cases hk with
  | chan c => exact exec_phase_exclusive h hd
  | slot => exact exec_slot_exclusive h hd
  | glue e =>
    obtain rfl | rfl | rfl | rfl := decodeE_cases _ _ _ hd
    · exact .next h
    · exact .ite (.next h) (.next h)
    · exact .next h
    · exact .ite (.next h) (.next h)
  | host w =>
    rw [decode_host hd]
    exact exec_hostInstr_exclusive _ _ _ s h
  | frame c w =>
    cases hd
    exact .next h
  | value p =>
    cases hd
    exact .refused

/-! ## The script holds no start of a poll (rule R107) -/

theorem startsPoll_scriptBit (c : Nat) (b : Bool) :
    ∀ it ∈ scriptBit c b, Item.startsPoll it = false := by
  simp [scriptBit, Item.startsPoll]

/-- The expansion of a frame drives pins and steps the channel only (rule R108). -/
theorem startsPoll_scriptFrame (c : Nat) (ns : List Nibble) :
    ∀ it ∈ scriptFrame c ns, Item.startsPoll it = false := by
  induction ns with
  | nil => simp [scriptFrame]
  | cons n ns ih =>
    simp only [scriptFrame, scriptNib, List.forall_mem_append]
    exact ⟨⟨⟨⟨startsPoll_scriptBit c _, startsPoll_scriptBit c _⟩, startsPoll_scriptBit c _⟩,
      startsPoll_scriptBit c _⟩, ih⟩

theorem State.sequencerStartsPolls.of_script {s t : State} (h : s.sequencerStartsPolls)
    (hs : t.script = s.script) : t.sequencerStartsPolls := by
  rw [State.sequencerStartsPolls, hs]
  exact h

@[simp] theorem present_script (s : State) (word : Nat) (data : HostData) :
    (s.present word data).script = s.script := by
  simp only [State.present]
  split <;> rfl

theorem selectEvent_sequencerStartsPolls (e : Event) (s : State) (h : s.sequencerStartsPolls) :
    (selectEvent e s).Has State.sequencerStartsPolls := by
  cases e with
  | host =>
    simp only [selectEvent]
    split <;> exact h
  | present w d => exact h.of_script (present_script s w d)
  | chan c => exact h
  | seq => exact h
  | glue code => exact h
  | clk c v => exact h
  | dat c v => exact h
  | netDone v => exact h
  | rst => exact h

/-- An entry that starts no poll leaves none to start: `settle` puts a channel step before itself. -/
theorem selectItem_sequencerStartsPolls (it : Item) (s : State) (hit : Item.startsPoll it = false)
    (h : s.sequencerStartsPolls) : (selectItem it s).Has State.sequencerStartsPolls := by
  cases it with
  | ev e => exact selectEvent_sequencerStartsPolls e s h
  | start c => cases hit
  | host w d =>
    have hpresent := h.of_script (present_script s w d)
    simp only [selectItem, selectHost]
    split
    · exact h
    · split <;> exact hpresent
  | poll c => cases hit
  | settle c =>
    simp only [selectItem, selectSettle]
    split
    · exact h
    · exact List.forall_mem_cons.2 ⟨rfl, List.forall_mem_cons.2 ⟨rfl, h⟩⟩
  | frame c w => exact h
  | value p => exact h

theorem select_sequencerStartsPolls (s : State) (h : s.sequencerStartsPolls) :
    (select s).Has State.sequencerStartsPolls := by
  cases hs : s.script with
  | nil =>
    rw [select_nil s hs]
    exact selectEvent_sequencerStartsPolls _ _ h
  | cons it rest =>
    rw [State.sequencerStartsPolls, hs] at h
    obtain ⟨hit, hrest⟩ := List.forall_mem_cons.1 h
    rw [select_cons s it rest hs]
    exact selectItem_sequencerStartsPolls it _ hit hrest

/-- Of all operations only `FRAME` writes the script, and it places no start of a poll. -/
theorem exec_sequencerStartsPolls (i : Instr) (s : State) (h : s.sequencerStartsPolls) :
    NextHas State.sequencerStartsPolls (exec i s) := by
  have hhost (cmd : BitVec 3) (a n : Nat) :
      NextHas State.sequencerStartsPolls (exec (hostInstr cmd a n) s) := by
    intro t ht
    have hframe := (exec_hostInstr_frame cmd a n s t ht).eq
    exact h.of_script (by rw [hframe])
  cases hc : channelOf i with
  | some c =>
    intro t ht
    have hframe := (exec_channelFrame hc s t ht).eq
    exact h.of_script (by rw [hframe])
  | none =>
    cases i with
    | hRdc a n => exact hhost 0b000 a n
    | hRdd a n => exact hhost 0b001 a n
    | hRdh a n => exact hhost 0b010 a n
    | hRdi a n => exact hhost 0b011 a n
    | hWrc a n => exact hhost 0b100 a n
    | hIll5 a n => exact hhost 0b101 a n
    | hWrh a n => exact hhost 0b110 a n
    | hIll7 a n => exact hhost 0b111 a n
    | tmrEvt => exact .next h
    | tickInc => exact .ite (.next h) (.next h)
    | adpEvt => exact .next h
    | adpSet => exact .ite (.next h) (.next h)
    | seqSnap => exact .next h
    | seqAdpclr => exact .next h
    | seqNetadv => exact .ite (.next h) (.next h)
    | seqCh =>
      intro t ht
      have hframe := execSeqCh_frame ht
      exact h.of_script (by rw [hframe])
    | seqHost =>
      intro t ht
      obtain rfl | ⟨u, hu, rfl⟩ := execSeqHost_next ht
      · exact h
      · exact hhost _ _ _ u hu
    | frame => exact .next (List.forall_mem_append.2 ⟨startsPoll_scriptFrame _ _, h⟩)
    | value => exact .refused
    | _ => cases hc

/-- Settles O55: with no start of a poll in the script, which every step keeps, the case `start` cannot
happen; the other cases keep the exclusion. -/
theorem everyStepKeepsChannelsExclusive : Obligations.EveryStepKeepsChannelsExclusive := by
  intro s t h hscript hstep
  refine ⟨?_, step_keeps State.sequencerStartsPolls s (select_sequencerStartsPolls s hscript)
    exec_sequencerStartsPolls t hstep⟩
  cases stepCase_of_next hstep with
  | operation s1 k i hb hk hd hx => exact exec_exclusive (h.of_blockEq hb) hk hd t hx
  | quiet hb => exact h.of_blockEq hb
  | reset _ s1 _ ht =>
    rw [ht]
    exact resetIn_serialExclusive s1.cfg
  | start c rest hs _ _ =>
    have hnone : Item.startsPoll (.start c) = false := hscript _ (by rw [hs]; exact .head _)
    cases hnone

/-! ## What only the timer handler and the reset write -/

/-- Settles O58: no operation writes either, and the reset's table is all zero. -/
theorem discreteInputsAndConfigurationNeverChange :
    Obligations.DiscreteInputsAndConfigurationNeverChange := by
  intro s t hstep
  have hkept (hcfg : t.cfg = s.cfg) (hdisc : t.table.discrete = s.table.discrete) :
      t.cfg = s.cfg ∧ (s.discreteZero → t.discreteZero) ∧
        (¬ s.choosesReset → t.table.discrete = s.table.discrete) := by
    refine ⟨hcfg, fun hzero => ?_, fun _ => hdisc⟩
    rw [State.discreteZero, hcfg, hdisc]
    exact hzero
  cases stepCase_of_next hstep with
  | operation s1 k i hb hk hd hx =>
    obtain hu | ⟨-, rfl⟩ := exec_untouched_or_timer hx
    · have hall := hb.untouched.trans hu
      exact hkept hall.cfg hall.discrete
    · exact hkept hb.cfg hb.untouched.discrete
  | quiet hb => exact hkept hb.cfg hb.untouched.discrete
  | reset hr s1 hb ht =>
    subst ht
    exact ⟨hb.cfg, fun _ => rfl, fun hn => absurd hr hn⟩
  | start c rest _ _ ht =>
    subst ht
    exact hkept rfl rfl

/-- Settles O59: of the operations only the timer handler moves the tick. -/
theorem onlyTheTimerHandlerMovesTheTick : Obligations.OnlyTheTimerHandlerMovesTheTick := by
  intro s t hn hstep
  cases stepCase_of_next hstep with
  | operation s1 k i hb hk hd hx =>
    obtain hu | ⟨hp, rfl⟩ := exec_untouched_or_timer hx
    · exact .inl (hb.untouched.trans hu).tick
    · refine .inr ⟨hb.tmrIrqPend.symm.trans hp, rfl, ?_⟩
      rw [takeTimerInterrupt_tick, hb.tick, hb.cfg]
  | quiet hb => exact .inl hb.tick
  | reset hr => exact absurd hr hn
  | start c rest _ _ ht =>
    subst ht
    exact .inl rfl

/-! ## Reserved codes (rules R24, R104 and R243) -/

theorem decode_reservedPhase (k : Config) (c : Nat) (p : BitVec 4) (hp : 9 ≤ p.toNat) :
    decode k (.s c p) = .error (.reservedPhase p) := by
  simp only [decode, decodeS]
  split
  case h_10 => rfl
  all_goals omega

theorem decode_reservedSlot (k : Config) (p : BitVec 3) (hp : 5 ≤ p.toNat) :
    decode k (.q p) = .error (.reservedSlot p) := by
  simp only [decode, decodeQ]
  split
  case h_6 => rfl
  all_goals omega

/-- A reserved phase is found in the first channel that holds one. -/
theorem reservedCode_phase (s : State) (h : ∃ x ∈ s.chans, 9 ≤ x.phase.toNat) :
    ∃ x ∈ s.chans, 9 ≤ x.phase.toNat ∧ s.reservedCode = some (.reservedPhase x.phase) := by
  obtain ⟨y, hy, hyp⟩ := h
  have hfound : (s.chans.find? fun x => decide (8 < x.phase.toNat)).isSome :=
    List.find?_isSome.2 ⟨y, hy, decide_eq_true hyp⟩
  obtain ⟨x, hx⟩ := Option.isSome_iff_exists.1 hfound
  have hxp : 8 < x.phase.toNat := by simpa using List.find?_some hx
  exact ⟨x, List.mem_of_find?_eq_some hx, hxp, by simp [State.reservedCode, hx]⟩

/-- With every phase in use the slot is looked at next, and then the status. -/
theorem reservedCode_of_phases (s : State) (h : ∀ x ∈ s.chans, x.phase.toNat ≤ 8) :
    s.reservedCode =
      if 4 < s.q.toNat then some (.reservedSlot s.q)
      else if s.hStatus = 3 then some .reservedStatus else none := by
  have hnone : s.chans.find? (fun x => decide (8 < x.phase.toNat)) = none := by
    simpa using h
  simp only [State.reservedCode, hnone]

/-- Settles O5: the decoder's last arms, and the three places where `State.reservedCode` looks. -/
theorem reservedCodesAreRefused : Obligations.ReservedCodesAreRefused := by
  refine ⟨decode_reservedPhase, decode_reservedSlot, fun s hv hp => ?phase,
    fun s hv hp hq => ?slot, fun s hv hp hq hs => ?status⟩
  case phase =>
    obtain ⟨x, hx, hxp, hr⟩ := reservedCode_phase s hp
    exact ⟨x, hx, hxp, step_reserved s _ hv hr⟩
  case slot =>
    have hq : 4 < s.q.toNat := hq
    exact step_reserved s _ hv (by rw [reservedCode_of_phases s hp, if_pos hq])
  case status =>
    exact step_reserved s _ hv
      (by rw [reservedCode_of_phases s hp, if_neg (Nat.not_lt.2 hq), if_pos hs])

/-! ## The reset values and the timer -/

/-- Settles O10: the reset state is written out with the values of rule R39. -/
theorem resetLeavesTheSpecValues : Obligations.ResetLeavesTheSpecValues :=
  ⟨rfl, fun _ => ⟨rfl, rfl, rfl, rfl, rfl, rfl, rfl, rfl, rfl, rfl, rfl, rfl, rfl, rfl⟩⟩

/-- Settles O42: a second event finds the latch set, so that one handler answers both. -/
theorem timerHandlerCountsOneTick : Obligations.TimerHandlerCountsOneTick := by
  intro s
  have hlatched : exec .tickInc { s with tmrIrqPend := true } =
      .next (takeTimerInterrupt { s with tmrIrqPend := true }) :=
    exec_tickInc_pending _ rfl
  exact ⟨rfl, exec_tickInc_pending s, exec_tickInc_clear s, _, _, _, rfl, rfl, hlatched, rfl, rfl⟩

end Sys2Proof.Machine

/-! SUPPORT. What a host command in range reads and writes, and what `CH.WRITE` stores; and from that
the statements about reads after writes. -/

namespace Sys2Proof.Machine

/-! ## An element as a list entry -/

/-- An input register that exists is read as it stands, without an extension (rule R96). -/
theorem some_read_ireg (t : Table) (k : Nat) (h : k < t.inputs.length) :
    some (t.read .ireg k) = t.inputs[k]? := by
  simp [Table.read, h]

/-! ## Host commands in range -/

/-- A read in range is answered with `HS_OK` (rule R191). -/
theorem hostAdmit_read_status (sp : Space) (addr count : Nat) (s : State)
    (h : 1 ≤ count ∧ addr + count ≤ s.cfg.n) :
    (hostAdmit addr count (hostRead sp addr count) s).hStatus = hsOk := by
  rw [hostAdmit_ok addr count _ s h, answered_hStatus]

/-- A read in range delivers the elements that it names (rules R194 to R197). -/
theorem hostAdmit_read_hRdata (sp : Space) (addr count : Nat) (s : State)
    (hn : addr + count ≤ s.cfg.n) (j : Nat) (hj : j < count) :
    (hostAdmit addr count (hostRead sp addr count) s).hRdata[j]? =
      some (s.table.read sp (addr + j)) := by
  have hlines : j < s.cfg.n := by omega
  rw [hostAdmit_ok addr count _ s ⟨by omega, hn⟩]
  simp [hostRead, hj, hlines]

/-- `hostAdmit_read_hRdata` by the index of the element in its space. -/
theorem hostAdmit_read_hRdata_at (sp : Space) (addr count : Nat) (s : State)
    (hn : addr + count ≤ s.cfg.n) (k : Nat) (hlow : addr ≤ k) (hhigh : k < addr + count) :
    (hostAdmit addr count (hostRead sp addr count) s).hRdata[k - addr]? =
      some (s.table.read sp k) := by
  rw [hostAdmit_read_hRdata sp addr count s hn (k - addr) (by omega), Nat.add_sub_cancel' hlow]

/-- A write in range is one `MemWrite` of the command's data (rules R198 and R199). -/
theorem hostAdmit_write_table (sp : Space) (addr count : Nat) (s : State)
    (h : 1 ≤ count ∧ addr + count ≤ s.cfg.n) :
    (hostAdmit addr count (hostWrite sp addr count) s).table =
      s.table.memWrite sp addr (writeData s count) := by
  rw [hostAdmit_ok addr count _ s h]
  rfl

/-- No host write changes the configuration, in range or not. -/
@[simp] theorem hostAdmit_write_cfg (sp : Space) (addr count : Nat) (s : State) :
    (hostAdmit addr count (hostWrite sp addr count) s).cfg = s.cfg := by
  simp only [hostAdmit]
  split <;> rfl

/-- Where all `N` write lines are driven, a command in range takes `count` elements from them. -/
theorem writeData_length (s : State) (count : Nat) (h : count ≤ s.hWdata.length) :
    (writeData s count).length = count :=
  List.length_take_of_le h

/-- A write in range leaves the command's data in the elements that it names (rules R198 and R199). -/
theorem hostAdmit_write_read (sp : Space) (addr count : Nat) (s : State)
    (hsize : s.table.size sp = s.cfg.n) (hdata : s.hWdata.length = s.cfg.n)
    (hn : addr + count ≤ s.cfg.n) (j : Nat) (hj : j < count) :
    some ((hostAdmit addr count (hostWrite sp addr count) s).table.read sp (addr + j)) =
      s.hWdata[j]?.map (storedElement sp) := by
  have hlen : (writeData s count).length = count := writeData_length s count (by omega)
  have hlines : j < s.hWdata.length := by omega
  rw [hostAdmit_write_table sp addr count s ⟨by omega, hn⟩,
    read_memWrite _ sp addr _ _ (by rw [hlen, hsize]; exact hn), dif_pos (by omega)]
  simp [writeData, hlines]

/-- Settles O40: the write leaves the data in the registers, and the read delivers the registers. -/
theorem writtenHoldingRegistersReadBack : Obligations.WrittenHoldingRegistersReadBack := by
  intro addr count s hshaped hdata hcount hn
  have hn' : addr + count ≤ (hostAdmit addr count (hostWrite .hold addr count) s).cfg.n := by
    rwa [hostAdmit_write_cfg]
  have hstatus := hostAdmit_read_status .hold addr count _ ⟨hcount, hn'⟩
  refine ⟨_, _, rfl, rfl, hstatus, fun j hj => ?_⟩
  calc
    _ = some ((hostAdmit addr count (hostWrite .hold addr count) s).table.read .hold (addr + j)) :=
      hostAdmit_read_hRdata .hold addr count _ hn' j hj
    _ = s.hWdata[j]?.map (storedElement .hold) :=
      hostAdmit_write_read .hold addr count s (hshaped.size .hold) hdata hn j hj
    _ = s.hWdata[j]? := Option.map_id'

/-! ## The write of a channel's pair (rules R91 and R180) -/

/-- The effect of `CH.WRITE`: both halves of the value in one access, and the end of the poll. -/
def writeValue (c : Nat) (s : State) : State :=
  (s.memWrite .ireg (s.cfg.base c)
      [(splitValue s.cfg.wordOrder (s.chan c).val).1,
        (splitValue s.cfg.wordOrder (s.chan c).val).2]).updChan c
    fun x => { x with res := resOk, phase := pIdle }

/-- `CH.WRITE` with its pair in the table has its effect. -/
theorem exec_chWrite (c : Nat) (s : State) (h : s.cfg.base c + 1 < s.cfg.n) :
    exec (.chWrite c) s = .next (writeValue c s) := by
  simp [exec, execChWrite, h, writeValue]

/-- After an access of two elements the first one reads as the first value. -/
theorem read_memWrite_pair_fst (t : Table) (sp : Space) (i : Nat) (v w : Word16)
    (h : i + 2 ≤ t.size sp) : (t.memWrite sp i [v, w]).read sp i = storedElement sp v := by
  rw [read_memWrite t sp i [v, w] i h, dif_pos (by simp)]
  simp

/-- After an access of two elements the second one reads as the second value. -/
theorem read_memWrite_pair_snd (t : Table) (sp : Space) (i : Nat) (v w : Word16)
    (h : i + 2 ≤ t.size sp) : (t.memWrite sp i [v, w]).read sp (i + 1) = storedElement sp w := by
  rw [read_memWrite t sp i [v, w] (i + 1) h, dif_pos (by simp)]
  simp

/-- `CH.WRITE` leaves the first half of the value at the pair's base. -/
theorem writeValue_read_base (c : Nat) (s : State) (h : s.cfg.base c + 1 < s.table.inputs.length) :
    (writeValue c s).table.read .ireg (s.cfg.base c) =
      (splitValue s.cfg.wordOrder (s.chan c).val).1 :=
  read_memWrite_pair_fst s.table .ireg (s.cfg.base c) _ _ h

/-- `CH.WRITE` leaves the second half of the value after the pair's base. -/
theorem writeValue_read_next (c : Nat) (s : State) (h : s.cfg.base c + 1 < s.table.inputs.length) :
    (writeValue c s).table.read .ireg (s.cfg.base c + 1) =
      (splitValue s.cfg.wordOrder (s.chan c).val).2 :=
  read_memWrite_pair_snd s.table .ireg (s.cfg.base c) _ _ h

/-- Settles O34: a read delivers both registers of one table, and `CH.WRITE` makes the new table in one
access. -/
theorem hostReadOfAPairIsNeverTorn : Obligations.HostReadOfAPairIsNeverTorn := by
  intro c s addr count b hb hpair hlen hlow hhigh hn
  subst hb
  have hpair' : s.cfg.base c + 1 < s.table.inputs.length := hlen.symm ▸ hpair
  have hread (t : State) (ht : t.cfg = s.cfg) (k : Nat)
      (hk : k = s.cfg.base c ∨ k = s.cfg.base c + 1) :
      (hostAdmit addr count (hostRead .ireg addr count) t).hRdata[k - addr]? =
        some (t.table.read .ireg k) :=
    hostAdmit_read_hRdata_at .ireg addr count t (ht.symm ▸ hn) k (by omega) (by omega)
  have hfirst := hread (writeValue c s) rfl _ (.inl rfl)
  have hsecond := hread (writeValue c s) rfl _ (.inr rfl)
  rw [writeValue_read_base c s hpair'] at hfirst
  rw [writeValue_read_next c s hpair'] at hsecond
  refine ⟨_, _, _, rfl, exec_chWrite c s hpair, rfl, ?_, ?_, fun horder => ?_, fun horder => ?_⟩
  · rw [hread s rfl _ (.inl rfl), some_read_ireg _ _ (by omega)]
  · rw [hread s rfl _ (.inr rfl), some_read_ireg _ _ hpair']
  all_goals
    rw [horder] at hfirst hsecond
    exact ⟨hfirst, hsecond⟩

end Sys2Proof.Machine

/-! SUPPORT. The encoder and the decoder of each format undo each other; and from that the
statements about codes, placed words and the test bench's `START`. -/

namespace Sys2Proof.Machine

/-! ## Codes made of fields side by side -/

/-- Two words of the same two fields side by side are equal exactly when both fields are. -/
theorem append_eq_append_iff {m n : Nat} (x x' : BitVec m) (y y' : BitVec n) :
    x ++ y = x' ++ y' ↔ x = x' ∧ y = y' := by
  constructor
  · intro h
    refine ⟨?_, ?_⟩
    · simpa only [BitVec.extractLsb'_append_eq_left] using congrArg (·.extractLsb' n m) h
    · simpa only [BitVec.extractLsb'_append_eq_right] using congrArg (·.extractLsb' 0 n) h
  · rintro ⟨rfl, rfl⟩
    rfl

/-- The nibbles of a frame word, packed again, are the word: no bit is dropped (rule R81). -/
theorem frameFields_append (word : BitVec 52) :
    word.extractLsb' 36 16 ++ frameNibble word 4 ++ frameNibble word 5 ++ frameNibble word 6 ++
      frameNibble word 7 ++ frameNibble word 8 ++ frameNibble word 9 ++ frameNibble word 10 ++
      frameNibble word 11 ++ frameNibble word 12 = word := by
  simp only [frameNibble]
  iterate 9 rw [BitVec.extractLsb'_append_extractLsb'_eq_extractLsb']
  · exact BitVec.extractLsb'_eq_self
  all_goals rfl

/-- The fields of a value, packed again, are the value (rule R90). -/
theorem valueFields_append (pattern : Pattern) :
    pattern.extractLsb' 31 1 ++ pattern.extractLsb' 23 8 ++ pattern.extractLsb' 0 23 = pattern := by
  iterate 2 rw [BitVec.extractLsb'_append_extractLsb'_eq_extractLsb']
  · exact BitVec.extractLsb'_eq_self
  all_goals rfl

/-- The nibbles of the field `START`, packed again, are the field (rule R81). -/
theorem startNibbles_append (start : BitVec 16) :
    startNibble start 0 ++ startNibble start 1 ++ startNibble start 2 ++ startNibble start 3 =
      start := by
  simp only [startNibble]
  iterate 3 rw [BitVec.extractLsb'_append_extractLsb'_eq_extractLsb']
  · exact BitVec.extractLsb'_eq_self
  all_goals rfl

/-- A packed frame word decodes to its fields: they are the only ones that make the word (rule
R81). -/
theorem decodeF_append (c : Nat) (start : BitVec 16) (sign d0 d1 d2 d3 d4 d5 dp rsv : Nibble) :
    decodeF c (start ++ sign ++ d0 ++ d1 ++ d2 ++ d3 ++ d4 ++ d5 ++ dp ++ rsv) =
      .ok (.frame c start sign d0 d1 d2 d3 d4 d5 dp rsv) := by
  have hfields := frameFields_append
    (start ++ sign ++ d0 ++ d1 ++ d2 ++ d3 ++ d4 ++ d5 ++ dp ++ rsv)
  simp only [append_eq_append_iff] at hfields
  simp only [decodeF, hfields]

/-- A packed value decodes to its fields (rule R90). -/
theorem decodeV_append (sgn : BitVec 1) (expo : BitVec 8) (frac : BitVec 23) :
    decodeV (sgn ++ expo ++ frac) = .ok (.value sgn expo frac) := by
  have hfields := valueFields_append (sgn ++ expo ++ frac)
  simp only [append_eq_append_iff] at hfields
  simp only [decodeV, hfields]

/-- A packed host word decodes to the row of its command, with its fields (rules R93 and R94). -/
theorem decodeH_hostWord (k : Config) (cmd : BitVec 3) (addr count : Nat)
    (ha : addr < 2 ^ k.addrW) (hn : count < 2 ^ k.countW) :
    decodeH k (hostWord k cmd addr count) = .ok (hostInstr cmd addr count) := by
  obtain ⟨hcmd, haddr, hcount⟩ := fields_hostWord k cmd addr count ha hn
  simp only [decodeH, hcmd, haddr, hcount]

/-- Every event code is an operation's (rule R102). -/
theorem event_cases (e : BitVec 2) : e = 0b00 ∨ e = 0b01 ∨ e = 0b10 ∨ e = 0b11 := by
  revert e
  decide

/-! ## The host command map (rule R94) -/

/-- The fields of a host command fit the configuration's widths exactly when the command is well
formed. -/
theorem hostInstr_wf (k : Config) (cmd : BitVec 3) (addr count : Nat) :
    (hostInstr cmd addr count).wf k =
      (decide (addr < 2 ^ k.addrW) && decide (count < 2 ^ k.countW)) := by
  simp only [hostInstr]
  split <;> rfl

/-- No host command is an outcome of another. -/
theorem hostInstr_operation (cmd : BitVec 3) (addr count : Nat) :
    (hostInstr cmd addr count).operation = hostInstr cmd addr count := by
  simp only [hostInstr]
  split <;> rfl

/-- The encoder puts a row of the command map back into its word. -/
theorem encode_hostInstr (k : Config) (cmd : BitVec 3) (addr count : Nat) :
    encode k (hostInstr cmd addr count) = .h (hostWord k cmd addr count) := by
  have hcmd : cmd = BitVec.ofNat 3 cmd.toNat := by simp
  have hlt := cmd.isLt
  generalize cmd.toNat = n at hcmd hlt
  subst hcmd
  match n, hlt with
  | 0, _ | 1, _ | 2, _ | 3, _ | 4, _ | 5, _ | 6, _ | 7, _ => rfl

/-- The 35 bits of an H word with fields of 16 bits are the word of its fields (rule R93). -/
theorem toNat_hostBits (cmd : BitVec 3) (addr count : BitVec 16) :
    (cmd ++ addr ++ count).toNat = hostWord Config.reference cmd addr.toNat count.toNat := by
  have ha := addr.isLt
  have hn := count.isLt
  rw [BitVec.toNat_append, BitVec.toNat_append, ← Nat.shiftLeft_add_eq_or_of_lt hn,
    ← Nat.shiftLeft_add_eq_or_of_lt ha]
  simp only [Nat.shiftLeft_eq, hostWord, Config.reference]
  omega

theorem decode_hostBits (cmd : BitVec 3) (addr count : BitVec 16) :
    decode Config.reference (.h (cmd ++ addr ++ count).toNat) =
      .ok (hostInstr cmd addr.toNat count.toNat) := by
  rw [toNat_hostBits]
  exact decodeH_hostWord Config.reference cmd _ _ addr.isLt count.isLt

/-! ## The statements about codes -/

/-- Settles O1: a code of the formats S, Q and E is a literal, and one of the others is its fields
packed. -/
theorem decodeOfEncodeIsTheOperation : Obligations.DecodeOfEncodeIsTheOperation := by
  intro k i hwf
  have hhost (cmd : BitVec 3) (a n : Nat)
      (h : (decide (a < 2 ^ k.addrW) && decide (n < 2 ^ k.countW)) = true) :
      decode k (.h (hostWord k cmd a n)) = .ok (hostInstr cmd a n) := by
    simp only [Bool.and_eq_true, decide_eq_true_eq] at h
    obtain ⟨haddr, hcount⟩ := h
    exact decodeH_hostWord k cmd a n haddr hcount
  cases i
  case hRdc a n => exact hhost 0b000 a n hwf
  case hRdd a n => exact hhost 0b001 a n hwf
  case hRdh a n => exact hhost 0b010 a n hwf
  case hRdi a n => exact hhost 0b011 a n hwf
  case hWrc a n => exact hhost 0b100 a n hwf
  case hIll5 a n => exact hhost 0b101 a n hwf
  case hWrh a n => exact hhost 0b110 a n hwf
  case hIll7 a n => exact hhost 0b111 a n hwf
  case frame => exact decodeF_append ..
  case value => exact decodeV_append ..
  all_goals rfl

/-- Settles O2: what each format decodes to, encoded again. -/
theorem decodedCodeEncodesBack : Obligations.DecodedCodeEncodesBack := by
  intro k code i hwf hd
  cases code with
  | s c p =>
    obtain ⟨rfl, rfl⟩ | ⟨rfl, rfl⟩ | ⟨rfl, rfl⟩ | ⟨rfl, rfl⟩ | ⟨rfl, rfl⟩ | ⟨rfl, rfl⟩ | ⟨rfl, rfl⟩ |
      ⟨rfl, rfl⟩ | ⟨rfl, rfl⟩ := decodeS_cases k c p i hd
    all_goals exact ⟨rfl, hwf, rfl⟩
  | q p =>
    obtain ⟨rfl, rfl⟩ | ⟨rfl, rfl⟩ | ⟨rfl, rfl⟩ | ⟨rfl, rfl⟩ | ⟨rfl, rfl⟩ :=
      decodeQ_cases k p i hd
    all_goals exact ⟨rfl, rfl, rfl⟩
  | e p =>
    obtain rfl | rfl | rfl | rfl := event_cases p
    all_goals
      cases hd
      exact ⟨rfl, rfl, rfl⟩
  | h w =>
    have hw : w < 2 ^ (3 + k.addrW + k.countW) := of_decide_eq_true hwf
    cases hd
    refine ⟨?_, ?_, hostInstr_operation ..⟩
    · rw [encode_hostInstr, hostWord_fields k w hw]
    · simp [hostInstr_wf, hAddrOf_lt, hCountOf_lt]
  | f c w =>
    cases hd
    exact ⟨congrArg (Code.f c) (frameFields_append w), hwf, rfl⟩
  | v p =>
    cases hd
    exact ⟨congrArg Code.v (valueFields_append p), rfl, rfl⟩

/-- Settles O3: the word of the three fields decodes to the row of its command bits. -/
theorem hostCommandMap : Obligations.HostCommandMap := fun addr count =>
  ⟨decode_hostBits 0b000 addr count, decode_hostBits 0b001 addr count,
    decode_hostBits 0b010 addr count, decode_hostBits 0b011 addr count,
    decode_hostBits 0b100 addr count, decode_hostBits 0b101 addr count,
    decode_hostBits 0b110 addr count, decode_hostBits 0b111 addr count⟩

/-- Settles O4: the decoder, evaluated on each word. -/
theorem writtenWordsDecode : Obligations.WrittenWordsDecode :=
  ⟨rfl, rfl, rfl, rfl, rfl, rfl, rfl, rfl, rfl⟩

/-! ## A placed table word -/

/-- What a table word is made of when it is placed: its code, and the entry and the register that
then hold it (log entries 4 and 13). -/
inductive Placed (s : State) (w : Nat) : Code → State → Prop
  | phase : Placed s w (.s 0 (BitVec.ofNat 4 w))
      { s.setPhase 0 (BitVec.ofNat 4 w) with script := .ev (.chan 0) :: s.script }
  | slot : Placed s w (.q (BitVec.ofNat 3 w))
      { s with q := BitVec.ofNat 3 w, script := .ev .seq :: s.script }
  | event : Placed s w (.e (BitVec.ofNat 2 w))
      { s with script := .ev (.glue (BitVec.ofNat 2 w)) :: s.script }
  | command : Placed s w (.h w) { s with hValid := false, script := .host w s.hWdata :: s.script }
  | frame : Placed s w (.f 0 (BitVec.ofNat 52 w))
      { s with script := .frame 0 (BitVec.ofNat 52 w) :: s.script }
  | value : Placed s w (.v (BitVec.ofNat 32 w))
      { s with script := .value (BitVec.ofNat 32 w) :: s.script }

/-- The width of a table word tells its format and where it is placed. -/
theorem placed_of_tableCode {nbits w : Nat} {code : Code} (s : State)
    (h : tableCode nbits w = some code) : Placed s w code (s.withFetchWord nbits w) := by
  simp only [tableCode] at h
  simp only [State.withFetchWord, placeWord]
  repeat' split at h
  all_goals cases h
  all_goals simp only [*, if_true, if_false]
  · exact .phase
  · exact .slot
  · exact .event
  · exact .command
  · exact .frame
  · exact .value

/-- A table word that decodes is of a format and its code decodes. -/
theorem decodeTableWord_some {nbits w : Nat} {i : Instr} (h : decodeTableWord nbits w = some i) :
    ∃ code, tableCode nbits w = some code ∧ decode Config.reference code = .ok i := by
  simp only [decodeTableWord] at h
  split at h
  · next code hcode =>
    split at h
    · next j hj =>
      cases h
      exact ⟨code, hcode, hj⟩
    · cases h
  · cases h

/-- The decoder asks the configuration for the widths of an H word's fields only. -/
theorem decode_eq_reference (k : Config) (code : Code) (ha : k.addrW = 16) (hn : k.countW = 16) :
    decode k code = decode Config.reference code := by
  cases code with
  | h w => simp [decode, decodeH, hCmdOf, hAddrOf, hCountOf, ha, hn, Config.reference]
  | _ => rfl

/-- Codes that decode are in use: the phase codes up to `P_WRITE` (rule R100). -/
theorem phase_le_of_decode {k : Config} {c : Nat} {p : BitVec 4} {i : Instr}
    (h : decode k (.s c p) = .ok i) : p.toNat ≤ 8 := by
  by_contra hp
  rw [decode_reservedPhase k c p (by omega)] at h
  cases h

/-- Codes that decode are in use: the slot codes up to `Q_HOST` (rule R101). -/
theorem slot_le_of_decode {k : Config} {p : BitVec 3} {i : Instr}
    (h : decode k (.q p) = .ok i) : p.toNat ≤ 4 := by
  by_contra hp
  rw [decode_reservedSlot k p (by omega)] at h
  cases h

/-- The step takes a state with another phase code in use in one channel. -/
theorem State.accepted.updChan {s : State} (h : s.accepted) (c : Nat) (f : Channel → Channel)
    (hf : (f (s.chan c)).phase.toNat ≤ 8) : (s.updChan c f).accepted := by
  obtain ⟨hv, hr⟩ := h
  obtain ⟨hphase, hslot⟩ := (reservedCode_none s).1 hr
  refine ⟨hv, (reservedCode_none _).2 ⟨fun x hx => ?_, hslot⟩⟩
  obtain hx | ⟨-, rfl⟩ := mem_updChan s c f x hx
  · exact hphase x hx
  · exact hf

/-- The step takes a state with another slot code in use. -/
theorem State.accepted.setSlot {s : State} (h : s.accepted) (p : BitVec 3) (hp : p.toNat ≤ 4) :
    { s with q := p }.accepted := by
  obtain ⟨hv, hr⟩ := h
  obtain ⟨hphase, -, hstatus⟩ := (reservedCode_none s).1 hr
  exact ⟨hv, (reservedCode_none _).2 ⟨hphase, hp, hstatus⟩⟩

/-- Settles O7: where the word was placed is where the next choice looks. -/
theorem placedWordIsRunNext : Obligations.PlacedWordIsRunNext := by
  intro s nbits w i ha haddr hcount hc hw hidle
  obtain ⟨code, hcode, href⟩ := decodeTableWord_some hw
  have hd : decode s.cfg code = .ok i := by rw [decode_eq_reference s.cfg code haddr hcount, href]
  have hplaced := placed_of_tableCode s hcode
  generalize s.withFetchWord nbits w = t at hplaced
  suffices h : ∃ s1, t.accepted ∧ select t = .operation code s1 ∧ s1.cfg = s.cfg ∧
      s1.script = s.script by
    obtain ⟨s1, ht, hs, hcfg, hscript⟩ := h
    exact ⟨code, s1, hs, hd, step_operation t s1 code i ht hs (hcfg.symm ▸ hd), hscript⟩
  cases hplaced with
  | phase =>
    have hphase : ((s.setPhase 0 (BitVec.ofNat 4 w)).chan 0).phase = BitVec.ofNat 4 w := by
      rw [chan_setPhase_self s 0 _ hc]
    have ht := ha.updChan 0 (fun x => { x with phase := BitVec.ofNat 4 w }) (phase_le_of_decode hd)
    exact ⟨_, ht, congrArg (fun p => Selected.operation (.s 0 p) _) hphase, rfl, rfl⟩
  | slot => exact ⟨_, ha.setSlot _ (slot_le_of_decode hd), rfl, rfl, rfl⟩
  | event => exact ⟨_, ha, rfl, rfl, rfl⟩
  | command =>
    have hlegal := selectHost_legal w s.hWdata { s with hValid := false } rfl (.inr hidle)
    have hport := present_eq { s with hValid := false } w s.hWdata rfl
    exact ⟨_, ha, hlegal.trans (congrArg _ hport), rfl, rfl⟩
  | frame => exact ⟨_, ha, rfl, rfl, rfl⟩
  | value => exact ⟨_, ha, rfl, rfl, rfl⟩

/-- Settles O9: the two outcomes of `selectStart`, by whether the channel is settled. -/
theorem startIsRefusedWhileBusyOrRequested : Obligations.StartIsRefusedWhileBusyOrRequested := by
  intro s c rest ha hs
  have hstep : step s = runSelected (selectStart c { s with script := rest }) := by
    rw [step_accepted s ha, select_cons s _ rest hs]
    rfl
  refine ⟨fun hidle => ?_, fun hbusy => ?_⟩
  · have hsettled : settled s c = true := (settled_iff s c).2 hidle
    exact hstep.trans (congrArg runSelected (if_pos hsettled))
  · have hunsettled : ¬ settled s c = true := by
      rw [settled_iff, not_and_or, Bool.not_eq_false]
      exact hbusy
    exact hstep.trans (congrArg runSelected (if_neg hunsettled))

/-- Settles O25: the pseudo-event's expansion, with the nibbles of `START` written out. -/
theorem frameRowSendsItsNibbles : Obligations.FrameRowSendsItsNibbles :=
  fun _ _ _ _ _ _ _ _ _ _ _ _ => rfl

/-- Settles O49: the meaning of the row is the refusal. -/
theorem valueFormatIsNoOperation : Obligations.ValueFormatIsNoOperation :=
  fun _ _ _ _ => rfl

end Sys2Proof.Machine

/-! SUPPORT. What the bits on a sensor's wire do to the channel that listens: one clock pulse, one
nibble, one frame; and from that the statements about the wire. -/

namespace Sys2Proof.Machine

/-! ## Runs -/

/-- A run goes on from the state that its first step answers. -/
theorem coreRun_succ (M : Host.Core) {n : Nat} {s t : M.State} (h : M.step s = .next t) :
    M.run (n + 1) s = M.run n t := by
  simp only [Host.Core.run, h]

/-- A run goes on from the state that its first part answers. -/
theorem coreRun_add (M : Host.Core) {m n : Nat} {s t : M.State} (h : M.run m s = .next t) :
    M.run (m + n) s = M.run n t := by
  induction m generalizing s with
  | zero =>
    cases h
    rw [Nat.zero_add]
  | succ m ih =>
    cases hs : M.step s with
    | next u =>
      rw [coreRun_succ M hs] at h
      rw [Nat.succ_add, coreRun_succ M hs, ih h]
    | fault r => simp [Host.Core.run, hs] at h
    | refused r => simp [Host.Core.run, hs] at h

/-- `n` steps lead from the state `s` to the state `t`. -/
def Reaches (n : Nat) (s t : State) : Prop := Sys2Proof.core.run n s = .next t

theorem Reaches.of_step {s t : State} (h : step s = .next t) : Reaches 1 s t :=
  coreRun_succ Sys2Proof.core h

theorem Reaches.trans {m n : Nat} {s t u : State} (h : Reaches m s t) (k : Reaches n t u) :
    Reaches (m + n) s u :=
  (coreRun_add Sys2Proof.core h).trans k

/-! ## The bits of a nibble (rule R83) -/

/-- A received bit enters at the top of the accumulator and the others move down. -/
theorem accumulate_getLsbD (acc : Nibble) (b : Bool) (i : Nat) :
    (accumulate acc b).getLsbD i = if i = 3 then b else acc.getLsbD (i + 1) := by
  have hbit : (if b then 1#4 else 0#4) = BitVec.setWidth 4 (BitVec.ofBool b) := by cases b <;> rfl
  simp only [accumulate, hbit, BitVec.getLsbD_or, BitVec.getLsbD_ushiftRight,
    BitVec.getLsbD_shiftLeft, Nat.add_comm 1 i]
  rcases Nat.lt_trichotomy i 3 with hi | rfl | hi
  · simp [hi, Nat.ne_of_lt hi]
  · simp
  · simp [Nat.not_lt.2 hi, Nat.ne_of_gt hi]

/-- Four received bits leave themselves in the accumulator, and nothing of what it held. -/
theorem accumulate_four (acc n : Nibble) :
    accumulate (accumulate (accumulate (accumulate acc (n.getLsbD 0)) (n.getLsbD 1)) (n.getLsbD 2))
      (n.getLsbD 3) = n := by
  refine BitVec.eq_of_getLsbD_eq fun i hi => ?_
  simp only [accumulate_getLsbD]
  match i, hi with
  | 0, _ | 1, _ | 2, _ | 3, _ => rfl

/-- Every four bits are those of a nibble, the first of weight 1 (rule R82). -/
theorem nibble_of_bits (b0 b1 b2 b3 : Bool) :
    ∃ n : Nibble, n.getLsbD 0 = b0 ∧ n.getLsbD 1 = b1 ∧ n.getLsbD 2 = b2 ∧ n.getLsbD 3 = b3 ∧
      n.toNat = b0.toNat + 2 * b1.toNat + 4 * b2.toNat + 8 * b3.toNat := by
  revert b0 b1 b2 b3
  decide

/-- Settles O22: the four bits shift what the accumulator held out of it. -/
theorem fourBitsMakeTheNibble : Obligations.FourBitsMakeTheNibble := by
  intro acc b0 b1 b2 b3
  refine ⟨rfl, ?_⟩
  obtain ⟨n, rfl, rfl, rfl, rfl, hn⟩ := nibble_of_bits b0 b1 b2 b3
  rw [accumulate_four, hn]

/-! ## The registers of a channel that receives -/

/-- A sample replaces `t0` and the phase, whatever they were. -/
theorem sampleRegs_lowPass (k : Config) (b : Bool) (now t : Nat) (p : BitVec 4) (x : Channel) :
    sampleRegs k b now { x with t0 := t, phase := p } = sampleRegs k b now x := rfl

/-- A sample within a nibble (rule R146). -/
theorem sampleRegs_within (k : Config) (b : Bool) (now : Nat) (x : Channel) (h : x.bi.toNat < 3) :
    sampleRegs k b now x =
      { x with acc := accumulate x.acc b, t0 := now, bi := x.bi + 1, phase := pWlow } :=
  if_pos h

/-- The registers after the nibble `n` (rules R82, R83 and R146). -/
def nibbleRegs (k : Config) (n : Nibble) (now : Nat) (x : Channel) : Channel :=
  { x with
    acc := n
    t0 := now
    nib := x.nib.set x.ni.toNat n
    bi := 0
    req := if x.ni = 0 then false else x.req
    ni := if x.ni.toNat < k.nnib - 1 then x.ni + 1 else x.ni
    phase := if x.ni.toNat < k.nnib - 1 then pWlow else pDecode }

/-- The last sample of a nibble stores what the accumulator then holds (rule R146). -/
theorem sampleRegs_last (k : Config) (b : Bool) (now : Nat) (x : Channel) (h : x.bi = 3) :
    sampleRegs k b now x = nibbleRegs k (accumulate x.acc b) now x := by
  simp [sampleRegs, nibbleRegs, h]

/-! ## The wire -/

/-- The state with the entries `script` to come (rule R107). -/
def State.withScript (s : State) (script : List Item) : State := { s with script := script }

/-- The state after channel `c` has got the registers `x` from its sensor, which has left its pins
at `clk` and `dat`. -/
def State.onWire (s : State) (c : Nat) (x : Channel) (clk dat : Bool) : State :=
  { s with
    chans := s.chans.set c x
    pinClk := s.pinClk.set c clk
    pinDat := s.pinDat.set c dat }

theorem chan_withScript (s : State) (script : List Item) (c : Nat) :
    (s.withScript script).chan c = s.chan c := rfl

/-- What a sensor does later replaces what it has done. -/
theorem onWire_onWire (s : State) (c : Nat) (x y : Channel) (k1 k2 d1 d2 : Bool) :
    (s.onWire c x k1 d1).onWire c y k2 d2 = s.onWire c y k2 d2 := by
  simp [State.onWire]

theorem chan_onWire_self (s : State) (c : Nat) (x : Channel) (clk dat : Bool)
    (h : c < s.chans.length) : (s.onWire c x clk dat).chan c = x :=
  chan_updChan_self s c (fun _ => x) h

theorem chan_onWire_ne (s : State) (c d : Nat) (x : Channel) (clk dat : Bool) (h : d ≠ c) :
    (s.onWire c x clk dat).chan d = s.chan d :=
  chan_updChan_ne s c d (fun _ => x) h

theorem State.accepted.onWire {s : State} (h : s.accepted) (c : Nat) (x : Channel) (clk dat : Bool)
    (hx : x.phase.toNat ≤ 8) : (s.onWire c x clk dat).accepted :=
  h.updChan c (fun _ => x) hx

/-- The step takes the state, and channel `c` exists with its pins and waits in the phase `p`. -/
structure Waiting (s : State) (c : Nat) (p : BitVec 4) : Prop where
  accepted : s.accepted
  chan : c < s.chans.length
  clk : c < s.pinClk.length
  dat : c < s.pinDat.length
  phase : (s.chan c).phase = p

/-- A channel that its sensor leaves in a phase in use waits in that phase. -/
theorem Waiting.onWire {s : State} {c : Nat} {p q : BitVec 4} (h : Waiting s c p) {x : Channel}
    (hx : x.phase = q) (hq : q.toNat ≤ 8) (clk dat : Bool) : Waiting (s.onWire c x clk dat) c q where
  accepted := h.accepted.onWire c x clk dat (hx.symm ▸ hq)
  chan := by simpa [State.onWire] using h.chan
  clk := by simpa [State.onWire] using h.clk
  dat := by simpa [State.onWire] using h.dat
  phase := by rw [chan_onWire_self s c x clk dat h.chan, hx]

/-! ## One clock pulse (rules R143 and R146) -/

/-- The sensor drives its data pin. -/
theorem reaches_dat {s : State} (ha : s.accepted) (c : Nat) (v : Bool) (rest : List Item) :
    Reaches 1 (s.withScript (.ev (.dat c v) :: rest)) ((s.driveDat c v).withScript rest) :=
  .of_step (step_accepted _ ha)

/-- The sensor drives its clock pin. -/
theorem reaches_clk {s : State} (ha : s.accepted) (c : Nat) (v : Bool) (rest : List Item) :
    Reaches 1 (s.withScript (.ev (.clk c v) :: rest)) ((s.driveClk c v).withScript rest) :=
  .of_step (step_accepted _ ha)

/-- The channel takes the step of its phase. -/
theorem reaches_chan {s t : State} {c : Nat} {i : Instr} {rest : List Item} (ha : s.accepted)
    (hd : decode s.cfg (.s c (s.chan c).phase) = .ok i)
    (hx : exec i (s.withScript rest) = .next t) :
    Reaches 1 (s.withScript (.ev (.chan c) :: rest)) t :=
  .of_step ((step_item (s.withScript (.ev (.chan c) :: rest)) (s.withScript rest) _ rest _ i ha
    rfl rfl hd).trans hx)

/-- A high clock ends the wait for it (rule R143). -/
theorem reaches_pass {s : State} {c : Nat} (h : Waiting s c pWlow) (hclk : pinReadClk s c = true)
    (rest : List Item) :
    Reaches 1 (s.withScript (.ev (.chan c) :: rest)) ((lowPass c s.tick s).withScript rest) :=
  reaches_chan (i := .chWlow c) h.accepted (by rw [h.phase]; rfl) (if_pos hclk)

/-- A low clock is sampled with the data pin (rule R146). -/
theorem reaches_sample {s : State} {c : Nat} (h : Waiting s c pWhigh)
    (hclk : pinReadClk s c = false) (rest : List Item) :
    Reaches 1 (s.withScript (.ev (.chan c) :: rest))
      ((highSample c (pinReadDat s c) s.tick s).withScript rest) :=
  reaches_chan (i := .chWhigh c) h.accepted (by rw [h.phase]; rfl) (if_pos hclk)

/-- The first half of a pulse: the data bit, the rising clock, and the step of `WLOW.PASS`. -/
theorem reaches_rise {s : State} {c : Nat} (h : Waiting s c pWlow) (b : Bool) (rest : List Item) :
    Reaches 3 (s.withScript (.ev (.dat c b) :: .ev (.clk c true) :: .ev (.chan c) :: rest))
      ((s.onWire c { s.chan c with t0 := s.tick, phase := pWhigh } true b).withScript rest) := by
  have hpin : pinReadClk ((s.driveDat c b).driveClk c true) c = true := by
    simp [pinReadClk, h.clk]
  have hwait : Waiting ((s.driveDat c b).driveClk c true) c pWlow :=
    ⟨h.accepted, h.chan, by simpa using h.clk, by simpa using h.dat, h.phase⟩
  have hdrive := reaches_dat h.accepted c b (.ev (.clk c true) :: .ev (.chan c) :: rest)
  have hclock := reaches_clk (s := s.driveDat c b) h.accepted c true (.ev (.chan c) :: rest)
  exact (hdrive.trans hclock).trans (reaches_pass hwait hpin rest)

/-- The second half of a pulse: the falling clock, and the step of `WHIGH.SAMPLE`. -/
theorem reaches_fall {s : State} {c : Nat} (h : Waiting s c pWhigh) (rest : List Item) :
    Reaches 2 (s.withScript (.ev (.clk c false) :: .ev (.chan c) :: rest))
      ((s.onWire c (sampleRegs s.cfg (pinReadDat s c) s.tick (s.chan c)) false
        (pinReadDat s c)).withScript rest) := by
  have hpin : pinReadClk (s.driveClk c false) c = false := by simp [pinReadClk, h.clk]
  have hwait : Waiting (s.driveClk c false) c pWhigh :=
    ⟨h.accepted, h.chan, by simpa using h.clk, h.dat, h.phase⟩
  have hdat : s.pinDat.set c (pinReadDat s c) = s.pinDat := by simp [pinReadDat, h.dat]
  rw [State.onWire, hdat]
  exact (reaches_clk h.accepted c false _).trans (reaches_sample hwait hpin rest)

/-- One pulse takes one bit: the five events of `BIT c b` (rule R108). -/
theorem reaches_bit {s : State} {c : Nat} (h : Waiting s c pWlow) (b : Bool) (rest : List Item) :
    Reaches 5 (s.withScript (scriptBit c b ++ rest))
      ((s.onWire c (sampleRegs s.cfg b s.tick (s.chan c)) false b).withScript rest) := by
  have hrise := reaches_rise h b (.ev (.clk c false) :: .ev (.chan c) :: rest)
  have hhigh := h.onWire (q := pWhigh)
    (x := { s.chan c with t0 := s.tick, phase := pWhigh }) rfl (by decide) true b
  have hfall := reaches_fall hhigh rest
  have hpin : pinReadDat (s.onWire c { s.chan c with t0 := s.tick, phase := pWhigh } true b) c =
      b := by
    simp [pinReadDat, State.onWire, h.dat]
  rw [hpin, onWire_onWire, chan_onWire_self s c _ true b h.chan, sampleRegs_lowPass] at hfall
  exact hrise.trans hfall

/-- Settles O23: the pulse's two halves. -/
theorem oneClockPulseTakesOneBit : Obligations.OneClockPulseTakesOneBit := by
  intro s c b rest ha hc hclk hdat hphase hs
  have hrun := reaches_bit ⟨ha, hc, hclk, hdat, hphase⟩ b rest
  rw [← hs] at hrun
  exact ⟨_, hrun, rfl, chan_onWire_self s c _ false b hc,
    fun d hd => chan_onWire_ne s c d _ false b hd⟩

/-! ## One nibble -/

/-- Four samples, the first of them at `bi = 0`, receive a nibble (rules R82 and R83). -/
theorem sampleRegs_four (k : Config) (n : Nibble) (now : Nat) (x : Channel) (h : x.bi = 0) :
    sampleRegs k (n.getLsbD 3) now (sampleRegs k (n.getLsbD 2) now (sampleRegs k (n.getLsbD 1) now
      (sampleRegs k (n.getLsbD 0) now x))) = nibbleRegs k n now x := by
  have hfour := accumulate_four x.acc n
  generalize n.getLsbD 0 = b0, n.getLsbD 1 = b1, n.getLsbD 2 = b2, n.getLsbD 3 = b3 at hfour ⊢
  simp [sampleRegs_within, sampleRegs_last, h, hfour, nibbleRegs]

/-- `reaches_bit` after other bits. -/
theorem reaches_bit_onWire {s : State} {c : Nat} (h : Waiting s c pWlow) {x : Channel}
    (hx : x.phase = pWlow) (d b : Bool) (rest : List Item) :
    Reaches 5 ((s.onWire c x false d).withScript (scriptBit c b ++ rest))
      ((s.onWire c (sampleRegs s.cfg b s.tick x) false b).withScript rest) := by
  have hbit := reaches_bit (h.onWire hx (by decide) false d) b rest
  rwa [onWire_onWire, chan_onWire_self s c x false d h.chan] at hbit

/-- One nibble on the wire is received: the twenty events of `NIB c n` (rule R108). -/
theorem reaches_nib {s : State} {c : Nat} (h : Waiting s c pWlow) (hbi : (s.chan c).bi = 0)
    (n : Nibble) (rest : List Item) :
    Reaches 20 (s.withScript (scriptNib c n ++ rest))
      ((s.onWire c (nibbleRegs s.cfg n s.tick (s.chan c)) false (n.getLsbD 3)).withScript rest) := by
  have hscript : scriptNib c n ++ rest = scriptBit c (n.getLsbD 0) ++ (scriptBit c (n.getLsbD 1) ++
      (scriptBit c (n.getLsbD 2) ++ (scriptBit c (n.getLsbD 3) ++ rest))) := by
    simp only [scriptNib, List.append_assoc]
  rw [hscript, ← sampleRegs_four s.cfg n s.tick _ hbi]
  refine (((reaches_bit h _ _).trans (reaches_bit_onWire h ?_ _ _ _)).trans
    (reaches_bit_onWire h ?_ _ _ _)).trans (reaches_bit_onWire h ?_ _ _ rest)
  all_goals simp [sampleRegs_within, hbi]

/-! ## One frame -/

/-- The registers of a channel that had received the nibbles `done` of its frame and has received
the rest of them, `g` and the last one `a` (rules R149 to R151). -/
def frameRegs (done g : List Nibble) (a : Nibble) (now : Nat) (x : Channel) : Channel :=
  { x with
    nib := done ++ g ++ [a]
    phase := pDecode
    ni := BitVec.ofNat 4 (done.length + g.length)
    bi := 0
    req := if x.ni = 0 then false else x.req
    acc := a
    t0 := now }

/-- The channel is at the start of a nibble, with the nibbles `done` received and the entries `old`
of its buffer still to be replaced. -/
structure Receiving (k : Config) (done old : List Nibble) (x : Channel) : Prop where
  bi : x.bi = 0
  nib : x.nib = done ++ old
  ni : x.ni.toNat = done.length
  len : done.length + old.length = k.nnib
  fits : k.nnib ≤ 16

/-- The last nibble completes the frame. -/
theorem Receiving.last {k : Config} {done : List Nibble} {o : Nibble} {x : Channel}
    (h : Receiving k done [o] x) (a : Nibble) (now : Nat) :
    nibbleRegs k a now x = frameRegs done [] a now x := by
  obtain ⟨-, hnib, hni, hlen, -⟩ := h
  have hend : ¬ done.length < k.nnib - 1 := by
    rw [List.length_singleton] at hlen
    omega
  have hindex : BitVec.ofNat 4 done.length = x.ni := by
    rw [← hni, BitVec.ofNat_toNat, BitVec.setWidth_eq]
  simp [nibbleRegs, frameRegs, hend, hnib, hni, hindex]

/-- A nibble that is not the last one is received, and the channel waits for the next one. -/
theorem Receiving.next {k : Config} {done old : List Nibble} {o : Nibble} {x : Channel}
    (h : Receiving k done (o :: old) x) (hold : 0 < old.length) (n : Nibble) (now : Nat) :
    Receiving k (done ++ [n]) old (nibbleRegs k n now x) ∧ (nibbleRegs k n now x).phase = pWlow ∧
      ∀ g a, frameRegs (done ++ [n]) g a now (nibbleRegs k n now x) =
        frameRegs done (n :: g) a now x := by
  obtain ⟨-, hnib, hni, hlen, hfits⟩ := h
  rw [List.length_cons] at hlen
  have hmore : x.ni.toNat < k.nnib - 1 := by omega
  have hone : (1 : BitVec 4).toNat = 1 := rfl
  have hnext : (x.ni + 1).toNat = done.length + 1 := by
    rw [BitVec.toNat_add_of_lt (by omega), hone, hni]
  have hne : ¬ x.ni + 1 = 0 := by
    intro hzero
    rw [hzero] at hnext
    cases hnext
  have hdone : (done ++ [n]).length = done.length + 1 := List.length_append
  refine ⟨⟨rfl, ?_, ?_, by omega, hfits⟩, ?_, fun g a => ?_⟩
  · simp [nibbleRegs, hnib, hni]
  · simp only [nibbleRegs, hmore, if_true, hnext, hdone]
  · simp only [nibbleRegs, hmore, if_true]
  · simp only [frameRegs, nibbleRegs, hmore, hne, if_true, if_false]
    simp [Nat.add_assoc, Nat.add_comm 1]

/-- The rest of a frame on the wire is received: the nibbles `g` and the last one `a` take the
places of the entries `old`. -/
theorem reaches_frame {c : Nat} (a : Nibble) (rest : List Item) (g : List Nibble) :
    ∀ (s : State) (done old : List Nibble), Waiting s c pWlow →
      Receiving s.cfg done old (s.chan c) → old.length = g.length + 1 →
      Reaches (20 * (g.length + 1)) (s.withScript (scriptFrame c (g ++ [a]) ++ rest))
        ((s.onWire c (frameRegs done g a s.tick (s.chan c)) false (a.getLsbD 3)).withScript rest) := by
  induction g with
  | nil =>
    intro s done old hwait hrec hold
    obtain ⟨o, rfl⟩ := List.length_eq_one_iff.1 hold
    rw [← hrec.last]
    exact reaches_nib hwait hrec.bi a rest
  | cons n g ih =>
    intro s done old hwait hrec hold
    obtain ⟨o, old, rfl⟩ := List.exists_cons_of_length_eq_add_one hold
    have hlen : old.length = g.length + 1 := Nat.succ.inj hold
    obtain ⟨hrec', hphase, hregs⟩ := hrec.next (by omega) n s.tick
    have hself := chan_onWire_self s c (nibbleRegs s.cfg n s.tick (s.chan c)) false (n.getLsbD 3)
      hwait.chan
    have hfirst := reaches_nib hwait hrec.bi n (scriptFrame c (g ++ [a]) ++ rest)
    have hothers := ih _ (done ++ [n]) old (hwait.onWire hphase (by decide) false (n.getLsbD 3))
      (hself.symm ▸ hrec') hlen
    rw [onWire_onWire, hself] at hothers
    have hscript : scriptFrame c (n :: g ++ [a]) ++ rest =
        scriptNib c n ++ (scriptFrame c (g ++ [a]) ++ rest) := List.append_assoc ..
    have hsteps : 20 * ((n :: g).length + 1) = 20 + 20 * (g.length + 1) := by
      rw [List.length_cons]
      omega
    rw [hscript, hsteps, ← hregs]
    exact hfirst.trans hothers

/-- A whole frame on the wire, from the start of a measurement (rules R81, R82 and R151). -/
theorem reaches_whole_frame {s : State} {c : Nat} (h : Waiting s c pWlow) {g : List Nibble}
    {a : Nibble} (rest : List Item) (hlen : (g ++ [a]).length = s.cfg.nnib) (hfits : s.cfg.nnib ≤ 16)
    (hnib : (s.chan c).nib.length = s.cfg.nnib) (hni : (s.chan c).ni = 0)
    (hbi : (s.chan c).bi = 0) :
    Reaches (20 * s.cfg.nnib) (s.withScript (scriptFrame c (g ++ [a]) ++ rest))
      ((s.onWire c (frameRegs [] g a s.tick (s.chan c)) false (a.getLsbD 3)).withScript rest) := by
  have hcount : s.cfg.nnib = g.length + 1 := by simpa using hlen.symm
  have hrec : Receiving s.cfg [] (s.chan c).nib (s.chan c) :=
    ⟨hbi, rfl, by rw [hni]; rfl, by simpa using hnib, hfits⟩
  have hframe := reaches_frame a rest g s [] _ h hrec (hnib.trans hcount)
  rwa [← hcount] at hframe

/-- From the start of a measurement a frame's registers hold exactly its nibbles. -/
theorem frameRegs_start (g : List Nibble) (a : Nibble) (now : Nat) (x : Channel) (hni : x.ni = 0) :
    frameRegs [] g a now x = { x with
      nib := g ++ [a], phase := pDecode, ni := BitVec.ofNat 4 g.length, bi := 0, req := false,
      acc := a, t0 := now } := by
  simp [frameRegs, hni]

/-- Settles O24: one nibble after the other takes its place in the buffer. -/
theorem frameOnTheWireFillsTheBuffer : Obligations.FrameOnTheWireFillsTheBuffer := by
  intro s c g a rest ha hc hclk hdat hlen hfits hnib hphase hni hbi hs
  have hrun := reaches_whole_frame ⟨ha, hc, hclk, hdat, hphase⟩ rest hlen hfits hnib hni hbi
  rw [← hs, frameRegs_start _ _ _ _ hni] at hrun
  exact ⟨_, hrun, rfl, by rw [chan_withScript, chan_onWire_self s c _ _ _ hc],
    fun d hd => by rw [chan_withScript, chan_onWire_ne s c d _ _ _ hd]⟩

/-! ## A frame with a bad start marker -/

/-- The twelve nibbles of a frame word before the last one, `START` first (rule R81). -/
def leadingNibbles (w : BitVec 52) : List Nibble :=
  [startNibble (w.extractLsb' 36 16) 0, startNibble (w.extractLsb' 36 16) 1,
    startNibble (w.extractLsb' 36 16) 2, startNibble (w.extractLsb' 36 16) 3, frameNibble w 4,
    frameNibble w 5, frameNibble w 6, frameNibble w 7, frameNibble w 8, frameNibble w 9,
    frameNibble w 10, frameNibble w 11]

/-- The step that a frame entry leads to places the bits of the frame's nibbles (rule R108). -/
theorem reaches_frame_entry {s : State} (ha : s.accepted) (c : Nat) (w : BitVec 52)
    (rest : List Item) :
    Reaches 1 (s.withScript (.frame c w :: rest))
      (s.withScript (scriptFrame c (leadingNibbles w ++ [frameNibble w 12]) ++ rest)) :=
  .of_step (step_accepted _ ha)

/-- A buffer whose first four nibbles make a bad `START` is no valid frame (rules R84 and R170). -/
theorem frameStartOk_startNibbles {start : BitVec 16} (h : start ≠ 0xFFFF) (others : List Nibble) :
    frameStartOk (startNibble start 0 :: startNibble start 1 :: startNibble start 2 ::
      startNibble start 3 :: others) = false := by
  rw [← Bool.not_eq_true]
  intro hok
  simp only [frameStartOk, nibAt, Bool.and_eq_true, beq_iff_eq] at hok
  obtain ⟨⟨⟨h0, h1⟩, h2⟩, h3⟩ := hok
  refine h ?_
  have hstart := startNibbles_append start
  simp only [List.getElem?_cons_zero, List.getElem?_cons_succ, Option.getD_some] at h0 h1 h2 h3
  rw [h0, h1, h2, h3] at hstart
  exact hstart.symm

/-- The decode step of a frame with a bad start marker (rule R171). -/
theorem reaches_invalid {s : State} {c : Nat} {p : BitVec 4} (h : Waiting s c p) {x : Channel}
    (hx : x.phase = pDecode) (hbad : frameStartOk x.nib = false) (clk dat : Bool)
    (rest : List Item) :
    Reaches 1 ((s.onWire c x clk dat).withScript (.ev (.chan c) :: rest))
      ((s.onWire c { x with res := resInvalidStart, phase := pIdle } clk dat).withScript rest) := by
  have hself := chan_onWire_self s c x clk dat h.chan
  have hself' : ((s.onWire c x clk dat).withScript rest).chan c = x := hself
  have hfail : takeFailure (.invalidStart c) ((s.onWire c x clk dat).withScript rest) =
      (s.onWire c { x with res := resInvalidStart, phase := pIdle } clk dat).withScript rest := by
    rw [takeFailure_invalidStart, State.updChan, hself']
    simp [State.withScript, State.onWire]
  refine reaches_chan (i := .chDecode c) (h.onWire hx (by decide) clk dat).accepted
    (by rw [hself, hx]; rfl) ?_
  rw [← hfail]
  exact if_neg (by rw [hself', hbad]; decide)

/-- Settles O26: the word's bits, the frame that they fill, and the decode step that rejects it. -/
theorem frameWithBadMarkerEndsInvalid : Obligations.FrameWithBadMarkerEndsInvalid := by
  intro s c w rest ha hc hclk hdat hnnib hnib hphase hni hbi hbad hs
  have hwait : Waiting s c pWlow := ⟨ha, hc, hclk, hdat, hphase⟩
  have hentry := reaches_frame_entry ha c w (.ev (.chan c) :: rest)
  have hframe := reaches_whole_frame hwait (g := leadingNibbles w) (a := frameNibble w 12)
    (.ev (.chan c) :: rest) hnnib.symm (by omega) (hnib.trans hnnib.symm) hni hbi
  rw [hnnib] at hframe
  have hrun := (hentry.trans hframe).trans
    (reaches_invalid hwait rfl (frameStartOk_startNibbles hbad _) _ _ rest)
  rw [← hs, frameRegs_start _ _ _ _ hni] at hrun
  refine ⟨_, hrun, rfl, rfl, ?res, ?phase, ?val, ?req, fun d hd => ?others⟩
  case others => rw [chan_withScript, chan_onWire_ne s c d _ _ _ hd]
  all_goals rw [chan_withScript, chan_onWire_self s c _ _ _ hc]

end Sys2Proof.Machine

/-! SUPPORT. The elements of a table as entries of its lists, what a command or a write leaves in
each of them, and what a decode does not look at; and from that the statements about the host port
and the value. -/

namespace Sys2Proof.Machine

/-! ## The entries of a space -/

/-- The element `k` of a space as a 16-bit number, if the space has it (rules R50 and R96). -/
def Table.entry (t : Table) (sp : Space) (k : Nat) : Option Word16 :=
  if k < t.size sp then some (t.read sp k) else none

theorem entry_coil (t : Table) (k : Nat) : t.entry .coil k = (t.coils[k]?).map bitElement := by
  by_cases h : k < t.coils.length
  · simp [Table.entry, Table.size, Table.read, h]
  · simp [Table.entry, Table.size, h]

theorem entry_disc (t : Table) (k : Nat) : t.entry .disc k = (t.discrete[k]?).map bitElement := by
  by_cases h : k < t.discrete.length
  · simp [Table.entry, Table.size, Table.read, h]
  · simp [Table.entry, Table.size, h]

theorem entry_hold (t : Table) (k : Nat) : t.entry .hold k = t.holding[k]? := by
  by_cases h : k < t.holding.length
  · simp [Table.entry, Table.size, Table.read, h]
  · simp [Table.entry, Table.size, h]

theorem entry_ireg (t : Table) (k : Nat) : t.entry .ireg k = t.inputs[k]? := by
  by_cases h : k < t.inputs.length
  · simp [Table.entry, Table.size, Table.read, h]
  · simp [Table.entry, Table.size, h]

/-- A bit and its element determine each other. -/
theorem bitElement_injective : Function.Injective bitElement := by
  decide

/-- `MemWrite` writes exactly the entries that it names (rule R53). -/
theorem entry_memWrite (t : Table) (sp : Space) (i : Nat) (vs : List Word16) (k : Nat)
    (hb : i + vs.length ≤ t.size sp) :
    (t.memWrite sp i vs).entry sp k =
      if i ≤ k ∧ k < i + vs.length then (vs[k - i]?).map (storedElement sp) else t.entry sp k := by
  by_cases h : i ≤ k ∧ k < i + vs.length
  · have hk : k - i < vs.length := by omega
    have hsize : k < t.size sp := by omega
    simp [Table.entry, read_memWrite t sp i vs k hb, h, hk, hsize]
  · have hk : ¬ (i ≤ k ∧ k - i < vs.length) := by omega
    simp only [Table.entry, size_memWrite, read_memWrite t sp i vs k hb, dif_neg hk, if_neg h]

/-! ## Host commands in range -/

/-- A read in range changes only the response and the model's counter of free values (rule R193). -/
theorem hostAdmit_read_frame (sp : Space) (addr count : Nat) (s : State)
    (h : 1 ≤ count ∧ addr + count ≤ s.cfg.n) :
    hostAdmit addr count (hostRead sp addr count) s =
      { s with
        hRdata := (hostAdmit addr count (hostRead sp addr count) s).hRdata, hStatus := hsOk,
        hDone := true, hValid := (hostAdmit addr count (hostRead sp addr count) s).hValid,
        free := (hostAdmit addr count (hostRead sp addr count) s).free } := by
  rw [hostAdmit_ok addr count _ s h]
  rfl

/-- A write in range changes only the table and the response (rules R198 and R199; log entry 15). -/
theorem hostAdmit_write_frame (sp : Space) (addr count : Nat) (s : State)
    (h : 1 ≤ count ∧ addr + count ≤ s.cfg.n) :
    hostAdmit addr count (hostWrite sp addr count) s =
      { s with
        table := (hostAdmit addr count (hostWrite sp addr count) s).table, hStatus := hsOk,
        hDone := true, hValid := (hostAdmit addr count (hostWrite sp addr count) s).hValid } := by
  rw [hostAdmit_ok addr count _ s h]
  rfl

/-- A read in range delivers the entries that it names. -/
theorem hostAdmit_read_entry (sp : Space) (addr count : Nat) (s : State)
    (hshaped : s.table.shaped s.cfg) (hn : addr + count ≤ s.cfg.n) (j : Nat) (hj : j < count) :
    (hostAdmit addr count (hostRead sp addr count) s).hRdata[j]? = s.table.entry sp (addr + j) := by
  have hsize : addr + j < s.table.size sp := by
    rw [hshaped.size]
    omega
  rw [hostAdmit_read_hRdata sp addr count s hn j hj, Table.entry, if_pos hsize]

/-- Settles O35: each read delivers the entries of its space. -/
theorem hostReadsDeliverTheElements : Obligations.HostReadsDeliverTheElements := by
  intro addr count s hshaped hcount hn
  have hframe (sp : Space) := hostAdmit_read_frame sp addr count s ⟨hcount, hn⟩
  refine ⟨_, _, _, _, rfl, rfl, rfl, rfl, ?_, fun j hj => ?_⟩
  · simp only [List.forall_mem_cons]
    exact ⟨hframe .coil, hframe .disc, hframe .hold, hframe .ireg, by simp⟩
  · have hentry (sp : Space) := hostAdmit_read_entry sp addr count s hshaped hn j hj
    exact ⟨(hentry .coil).trans (entry_coil ..), (hentry .disc).trans (entry_disc ..),
      (hentry .hold).trans (entry_hold ..), (hentry .ireg).trans (entry_ireg ..)⟩

/-- A write in range leaves the command's data in the entries that it names, and the others
alone. -/
theorem hostAdmit_write_entry (sp : Space) (addr count : Nat) (s : State)
    (hshaped : s.table.shaped s.cfg) (hdata : s.hWdata.length = s.cfg.n)
    (h : 1 ≤ count ∧ addr + count ≤ s.cfg.n) (k : Nat) :
    (hostAdmit addr count (hostWrite sp addr count) s).table.entry sp k =
      if addr ≤ k ∧ k < addr + count then (s.hWdata[k - addr]?).map (storedElement sp)
      else s.table.entry sp k := by
  have hlen : (writeData s count).length = count := writeData_length s count (by omega)
  rw [hostAdmit_write_table sp addr count s h,
    entry_memWrite _ sp addr _ k (by rw [hlen, hshaped.size]; exact h.2), hlen]
  split
  · rw [writeData, List.getElem?_take_of_lt (by omega)]
  · rfl

/-- `hostAdmit_write_entry` for an element that the command names, by its place in the command. -/
theorem hostAdmit_write_entry_named (sp : Space) (addr count : Nat) (s : State)
    (hshaped : s.table.shaped s.cfg) (hdata : s.hWdata.length = s.cfg.n)
    (h : 1 ≤ count ∧ addr + count ≤ s.cfg.n) (j : Nat) (hj : j < count) :
    (hostAdmit addr count (hostWrite sp addr count) s).table.entry sp (addr + j) =
      (s.hWdata[j]?).map (storedElement sp) := by
  rw [hostAdmit_write_entry sp addr count s hshaped hdata h, if_pos (by omega),
    Nat.add_sub_cancel_left]

/-- `hostAdmit_write_entry` for an element that the command does not name. -/
theorem hostAdmit_write_entry_other (sp : Space) (addr count : Nat) (s : State)
    (hshaped : s.table.shaped s.cfg) (hdata : s.hWdata.length = s.cfg.n)
    (h : 1 ≤ count ∧ addr + count ≤ s.cfg.n) (k : Nat) (hk : k < addr ∨ addr + count ≤ k) :
    (hostAdmit addr count (hostWrite sp addr count) s).table.entry sp k = s.table.entry sp k := by
  rw [hostAdmit_write_entry sp addr count s hshaped hdata h, if_neg (by omega)]

/-- A write of coils keeps the other spaces. -/
theorem memWrite_coil_frame (t : Table) (i : Nat) (vs : List Word16) :
    t.memWrite .coil i vs = { t with coils := (t.memWrite .coil i vs).coils } := by
  rw [Table.mk.injEq]
  exact ⟨rfl, memWrite_discrete _ _ _ _ (by decide), memWrite_holding _ _ _ _ (by decide),
    memWrite_inputs _ _ _ _ (by decide)⟩

/-- A write of holding registers keeps the other spaces. -/
theorem memWrite_hold_frame (t : Table) (i : Nat) (vs : List Word16) :
    t.memWrite .hold i vs = { t with holding := (t.memWrite .hold i vs).holding } := by
  rw [Table.mk.injEq]
  exact ⟨memWrite_coils _ _ _ _ (by decide), memWrite_discrete _ _ _ _ (by decide), rfl,
    memWrite_inputs _ _ _ _ (by decide)⟩

/-- A write of input registers keeps the other spaces. -/
theorem memWrite_ireg_frame (t : Table) (i : Nat) (vs : List Word16) :
    t.memWrite .ireg i vs = { t with inputs := (t.memWrite .ireg i vs).inputs } := by
  rw [Table.mk.injEq]
  exact ⟨memWrite_coils _ _ _ _ (by decide), memWrite_discrete _ _ _ _ (by decide),
    memWrite_holding _ _ _ _ (by decide), rfl⟩

/-- Settles O36: the coils are the entries of their space, a bit determined by its element. -/
theorem hostCoilWriteSetsTheCoils : Obligations.HostCoilWriteSetsTheCoils := by
  intro addr count s hshaped hdata hcount hn
  have hin : 1 ≤ count ∧ addr + count ≤ s.cfg.n := ⟨hcount, hn⟩
  have hbit := Option.map_injective bitElement_injective
  refine ⟨_, rfl, hostAdmit_write_frame .coil addr count s hin, ?_, fun j hj => hbit ?_,
    fun k hk => hbit ?_⟩
  · rw [hostAdmit_write_table .coil addr count s hin]
    exact memWrite_coil_frame ..
  · rw [← entry_coil, hostAdmit_write_entry_named .coil addr count s hshaped hdata hin j hj,
      Option.map_map]
    rfl
  · rw [← entry_coil, ← entry_coil]
    exact hostAdmit_write_entry_other .coil addr count s hshaped hdata hin k hk

/-- Settles O37: the holding registers are the entries of their space. -/
theorem hostHoldingWriteSetsTheRegisters : Obligations.HostHoldingWriteSetsTheRegisters := by
  intro addr count s hshaped hdata hcount hn
  have hin : 1 ≤ count ∧ addr + count ≤ s.cfg.n := ⟨hcount, hn⟩
  refine ⟨_, rfl, hostAdmit_write_frame .hold addr count s hin, ?_, fun j hj => ?_,
    fun k hk => ?_⟩
  · rw [hostAdmit_write_table .hold addr count s hin]
    exact memWrite_hold_frame ..
  · rw [← entry_hold, hostAdmit_write_entry_named .hold addr count s hshaped hdata hin j hj]
    exact Option.map_id'
  · rw [← entry_hold, ← entry_hold]
    exact hostAdmit_write_entry_other .hold addr count s hshaped hdata hin k hk

/-! ## The write of a channel's pair -/

/-- `CH.WRITE` leaves the halves of the value in the two entries of the pair, and the others
alone. -/
theorem writeValue_inputs (c : Nat) (s : State) (h : s.cfg.base c + 1 < s.table.inputs.length)
    (i : Nat) : (writeValue c s).table.inputs[i]? =
      if i = s.cfg.base c then some (splitValue s.cfg.wordOrder (s.chan c).val).1
      else if i = s.cfg.base c + 1 then some (splitValue s.cfg.wordOrder (s.chan c).val).2
      else s.table.inputs[i]? := by
  have hentry := entry_memWrite s.table .ireg (s.cfg.base c)
    [(splitValue s.cfg.wordOrder (s.chan c).val).1, (splitValue s.cfg.wordOrder (s.chan c).val).2] i h
  rw [entry_ireg, entry_ireg] at hentry
  refine hentry.trans ?_
  by_cases hfirst : i = s.cfg.base c
  · simp [hfirst, storedElement]
  · by_cases hsecond : i = s.cfg.base c + 1
    · simp [hsecond, storedElement]
    · rw [if_neg hfirst, if_neg hsecond, if_neg]
      simp only [List.length_cons, List.length_nil]
      omega

/-- Settles O33: the pair is written in one access, and the halves stand in the configured order. -/
theorem writeStoresThePair : Obligations.WriteStoresThePair := by
  intro c s hc hpair hlen
  refine ⟨_, exec_chWrite c s hpair, rfl, memWrite_ireg_frame .., fun i => ?_, ?_, fun d hd => ?_⟩
  · rw [writeValue_inputs c s hlen]
    cases s.cfg.wordOrder <;> rfl
  · exact chan_updChan_self _ c _ hc
  · exact chan_updChan_ne _ c d _ hd

/-! ## The nibble that a decode ignores (rules R88 and R175) -/

/-- A decode looks at the entries 0 to 11 of the buffer only. -/
theorem nibAt_set_reserved (nib : List Nibble) (x : Nibble) (k : Nat) (h : k ≠ 12) :
    nibAt (nib.set 12 x) k = nibAt nib k := by
  simp [nibAt, h.symm]

theorem frameStartOk_set_reserved (nib : List Nibble) (x : Nibble) :
    frameStartOk (nib.set 12 x) = frameStartOk nib := by
  simp [frameStartOk, nibAt_set_reserved]

theorem frameValue_set_reserved (k : Config) (nib : List Nibble) (x : Nibble) :
    frameValue k (nib.set 12 x) = frameValue k nib := by
  simp [frameValue, frameNeg, frameMagnitude, frameExponent, nibAt_set_reserved]

/-- Two updates of one channel are one. -/
theorem updChan_updChan (s : State) (c : Nat) (f g : Channel → Channel) (h : c < s.chans.length) :
    (s.updChan c f).updChan c g = s.updChan c (fun x => g (f x)) := by
  rw [State.updChan, chan_updChan_self s c f h]
  simp [State.updChan]

/-- An update of a channel is what it makes of that channel's registers. -/
theorem updChan_congr (s : State) (c : Nat) {f g : Channel → Channel}
    (h : f (s.chan c) = g (s.chan c)) : s.updChan c f = s.updChan c g := by
  simp only [State.updChan, h]

/-- The effect of `CH.DECODE` on the channel's registers (rules R171 and R178). -/
def decodeRegs (k : Config) (x : Channel) : Channel :=
  if frameStartOk x.nib then { x with val := frameValue k x.nib, phase := pWrite }
  else { x with res := resInvalidStart, phase := pIdle }

/-- `CH.DECODE` has its effect, whatever the frame. -/
theorem exec_chDecode (c : Nat) (s : State) :
    exec (.chDecode c) s = .next (s.updChan c (decodeRegs s.cfg)) := by
  by_cases hok : frameStartOk (s.chan c).nib = true
  · exact (if_pos hok).trans (congrArg _ (updChan_congr s c (if_pos hok).symm))
  · exact (if_neg hok).trans (congrArg _
      ((takeFailure_invalidStart c s).trans (updChan_congr s c (if_neg hok).symm)))

/-- Settles O32: the decode's effect commutes with a write of nibble 12. -/
theorem reservedNibbleIsIgnored : Obligations.ReservedNibbleIsIgnored := by
  intro c s x hc
  refine ⟨_, _, exec_chDecode c s, exec_chDecode c _, ?_⟩
  rw [updChan_updChan _ _ _ _ hc, updChan_updChan _ _ _ _ hc, updChan_cfg]
  congr 1
  funext r
  simp only [decodeRegs, frameStartOk_set_reserved, frameValue_set_reserved]
  split <;> rfl

end Sys2Proof.Machine

/-! SUPPORT. The range of the exponent and of the fraction of a decoded value (rules R90, R177 and
R183), and from that the statement about the patterns that the block produces. -/

namespace Sys2Proof.Machine

/-! ## The fields of a packed pattern -/

/-- Three fields shifted to their places are the fields side by side (rule R90). -/
theorem shiftedFields_eq_append (neg : Bool) (E F : Nat) (hE : E < 2 ^ 8) (hF : F < 2 ^ 23) :
    (BitVec.ofNat 32 neg.toNat <<< 31) ||| (BitVec.ofNat 32 E <<< 23) ||| BitVec.ofNat 32 F =
      BitVec.ofBool neg ++ BitVec.ofNat 8 E ++ BitVec.ofNat 23 F := by
  have hn : neg.toNat < 2 := Bool.toNat_lt neg
  have hsign : neg.toNat <<< 31 < 2 ^ 32 := by rw [Nat.shiftLeft_eq]; omega
  have hexp : E <<< 23 < 2 ^ 32 := by rw [Nat.shiftLeft_eq]; omega
  refine BitVec.eq_of_toNat_eq ?_
  simp only [BitVec.toNat_or, BitVec.toNat_shiftLeft, BitVec.toNat_ofNat, BitVec.toNat_append,
    BitVec.toNat_ofBool]
  rw [Nat.mod_eq_of_lt (show neg.toNat < 2 ^ 32 by omega),
    Nat.mod_eq_of_lt (show E < 2 ^ 32 by omega), Nat.mod_eq_of_lt (show F < 2 ^ 32 by omega),
    Nat.mod_eq_of_lt hsign, Nat.mod_eq_of_lt hexp, Nat.mod_eq_of_lt hE,
    Nat.mod_eq_of_lt hF, Nat.shiftLeft_or_distrib, ← Nat.shiftLeft_add]

/-- The fields of a packed pattern (rule R90). -/
theorem f32Pack_fields (neg : Bool) (e : Int) (q : Nat) (he : (e + 127).toNat < 2 ^ 8)
    (hq : q - 2 ^ 23 < 2 ^ 23) :
    patternExponent (f32Pack neg e q) = (e + 127).toNat ∧ (f32Pack neg e q).getLsbD 31 = neg := by
  have hpack : f32Pack neg e q = _ := shiftedFields_eq_append neg _ _ he hq
  have hfields := (valueFields_append (f32Pack neg e q)).trans hpack
  rw [append_eq_append_iff, append_eq_append_iff] at hfields
  obtain ⟨⟨hsign, hexp⟩, -⟩ := hfields
  refine ⟨?_, ?_⟩
  · rw [patternExponent, hexp, BitVec.toNat_ofNat, Nat.mod_eq_of_lt he]
  · simpa using congrArg (·.getLsbD 0) hsign

/-! ## The range of the exponent and of the quotient -/

/-- The exponent of a frame's ratio: from `10^-15` to `1666665` lies between `2^-50` and `2^21`. -/
theorem f32Exponent_range (M p : Nat) (hM : 0 < M) (hmax : M ≤ 1666665) (hp : p ≤ 15) :
    -50 ≤ f32Exponent M (10 ^ p) ∧ f32Exponent M (10 ^ p) ≤ 20 := by
  obtain ⟨hlow, hhigh⟩ := f32Exponent_spec M (10 ^ p) hM (by positivity)
  generalize f32Exponent M (10 ^ p) = e at hlow hhigh
  have hM1 : (1 : ℚ) ≤ M := by exact_mod_cast hM
  have hM2 : (M : ℚ) ≤ 1666665 := by exact_mod_cast hmax
  have hD1 : (1 : ℚ) ≤ (10 ^ p : Nat) := by exact_mod_cast Nat.one_le_pow p 10 (by norm_num)
  have hD2 : ((10 ^ p : Nat) : ℚ) ≤ 10 ^ 15 := by
    exact_mod_cast Nat.pow_le_pow_right (show 0 < 10 by norm_num) hp
  refine ⟨?_, ?_⟩
  · by_contra hlt
    have hpow : (2 : ℚ) ^ (e + 1) ≤ 2 ^ (-50 : Int) :=
      zpow_le_zpow_right₀ (by norm_num) (by omega)
    have hsmall : (M : ℚ) < 10 ^ 15 * 2 ^ (-50 : Int) := hhigh.trans_le (by gcongr)
    norm_num at hsmall
    linarith
  · by_contra hgt
    have hpow : (2 : ℚ) ^ (21 : Int) ≤ 2 ^ e := zpow_le_zpow_right₀ (by norm_num) (by omega)
    have hlarge : (1 : ℚ) * 2 ^ (21 : Int) ≤ M := le_trans (by gcongr) hlow
    norm_num at hlarge
    linarith

/-- Rounding to nearest keeps between two whole numbers. -/
theorem roundedQuotient_bounds (num den a b : Nat) (hden : 0 < den) (hlow : a * den ≤ num)
    (hhigh : num < b * den) : a ≤ roundedQuotient num den ∧ roundedQuotient num den ≤ b := by
  obtain ⟨hup, hdown⟩ := roundedQuotient_spec num den hden
  generalize roundedQuotient num den = q at hup hdown
  refine ⟨?_, ?_⟩
  · by_contra hq
    have hle : (q + 1) * den ≤ a * den := Nat.mul_le_mul_right den (by omega)
    rw [Nat.add_mul] at hle
    omega
  · by_contra hq
    have hle : (b + 1) * den ≤ q * den := Nat.mul_le_mul_right den (by omega)
    rw [Nat.add_mul] at hle
    omega

/-- The scaled quotient is at least `2^23` and below `2^24` (rule R177). -/
theorem scaled_range (M D : Nat) (hM : 0 < M) (hD : 0 < D) :
    2 ^ 23 * f32Den D (f32Exponent M D) ≤ f32Num M (f32Exponent M D) ∧
      f32Num M (f32Exponent M D) < 2 ^ 24 * f32Den D (f32Exponent M D) := by
  obtain ⟨hlow, hhigh⟩ := f32Exponent_spec M D hM hD
  generalize f32Exponent M D = e at hlow hhigh
  obtain ⟨hscaled, hden⟩ := f32_scaled M D e hD
  have hDq : (0 : ℚ) < D := by exact_mod_cast hD
  have hdenq : (0 : ℚ) < f32Den D e := by exact_mod_cast hden
  have hpow : (0 : ℚ) < (2 : ℚ) ^ (23 - e) := by positivity
  have hsplit (j : Int) : (2 : ℚ) ^ j * 2 ^ (23 - e) = 2 ^ (j + (23 - e)) :=
    (zpow_add₀ two_ne_zero _ _).symm
  refine ⟨?_, ?_⟩
  · have hratio : (2 : ℚ) ^ 23 ≤ (f32Num M e : ℚ) / f32Den D e := by
      rw [hscaled]
      calc (2 : ℚ) ^ 23 = 2 ^ e * 2 ^ (23 - e) := by rw [hsplit, add_sub_cancel]; norm_num
        _ ≤ M / D * 2 ^ (23 - e) := by
          gcongr
          rw [le_div_iff₀ hDq, mul_comm]
          exact hlow
    rw [le_div_iff₀ hdenq] at hratio
    exact_mod_cast hratio
  · have hratio : (f32Num M e : ℚ) / f32Den D e < (2 : ℚ) ^ 24 := by
      rw [hscaled]
      calc (M : ℚ) / D * 2 ^ (23 - e) < 2 ^ (e + 1) * 2 ^ (23 - e) := by
            gcongr
            rw [div_lt_iff₀ hDq, mul_comm]
            exact hhigh
        _ = 2 ^ 24 := by rw [hsplit, show e + 1 + (23 - e) = 24 by ring]; norm_num
    rw [div_lt_iff₀ hdenq] at hratio
    exact_mod_cast hratio

/-- At the greatest exponent of a frame the quotient is not rounded up to `2^24`. -/
theorem roundedQuotient_lt_of_exponent_twenty (M D : Nat) (hD : 0 < D) (hmax : M ≤ 1666665) :
    roundedQuotient (f32Num M 20) (f32Den D 20) < 2 ^ 24 := by
  have hnum : f32Num M 20 = M * 2 ^ 3 := rfl
  have hden : f32Den D 20 = D := rfl
  rw [hnum, hden]
  have hbound := (roundedQuotient_bounds (M * 2 ^ 3) D 0 (2 ^ 24 - 1) hD (by omega) (by omega)).2
  omega

/-- A non-zero frame's pattern is packed from an exponent and a quotient of 24 bits (rules R90 and
R177). -/
theorem f32OfRatio_packed (negZero neg : Bool) (M p : Nat) (hM : 0 < M) (hmax : M ≤ 1666665)
    (hp : p ≤ 15) :
    ∃ (e : Int) (q : Nat), -50 ≤ e ∧ e ≤ 20 ∧ 2 ^ 23 ≤ q ∧ q < 2 ^ 24 ∧
      f32OfRatio negZero neg M (10 ^ p) = f32Pack neg e q := by
  have hD : 0 < 10 ^ p := by positivity
  obtain ⟨hlow, hhigh⟩ := f32Exponent_range M p hM hmax hp
  obtain ⟨hnumlow, hnumhigh⟩ := scaled_range M (10 ^ p) hM hD
  obtain ⟨hqlow, hqhigh⟩ := roundedQuotient_bounds _ _ _ _ (f32_scaled M _ _ hD).2 hnumlow hnumhigh
  simp only [f32OfRatio, if_neg (Nat.pos_iff_ne_zero.1 hM)]
  split
  · next hround =>
    have hne : f32Exponent M (10 ^ p) ≠ 20 := by
      intro he
      rw [he] at hround
      exact absurd hround (roundedQuotient_lt_of_exponent_twenty M _ hD hmax).ne
    exact ⟨_, 2 ^ 23, by omega, by omega, le_rfl, by norm_num, rfl⟩
  · next hround => exact ⟨_, _, hlow, hhigh, hqlow, by omega, rfl⟩

/-- Settles O31: the zero case, and the packed fields of the others. -/
theorem producedPatternsAreInRange : Obligations.ProducedPatternsAreInRange := by
  intro negZero neg M p hmax hp
  refine ⟨fun hzero => ?_, fun hM => ?_⟩
  · subst hzero
    cases negZero <;> cases neg <;> rfl
  · obtain ⟨e, q, hlow, hhigh, hqlow, hqhigh, hpack⟩ := f32OfRatio_packed negZero neg M p hM hmax hp
    obtain ⟨hexp, hsign⟩ := f32Pack_fields neg e q (by omega) (by omega)
    rw [hpack, hexp]
    exact ⟨by omega, by omega, hsign⟩

end Sys2Proof.Machine

/-! SUPPORT. What the operations of the poll dispatch and of the origin-set actuation do (rules R121 to
R128), and what a step can do to the registers of one channel, once; and from that the statements about
poll and origin-set. -/

namespace Sys2Proof.Machine

/-! ## The operations of a poll (rules R121 to R128) -/

/-- What an update of an existing channel leaves, and what it makes of that channel. -/
theorem updChan_frame (c : Nat) (s : State) (f : Channel → Channel) (hc : c < s.chans.length) :
    s.updChan c f = { s with chans := (s.updChan c f).chans } ∧
      (∀ d, d ≠ c → (s.updChan c f).chan d = s.chan d) ∧ (s.updChan c f).chan c = f (s.chan c) :=
  ⟨rfl, fun d hd => chan_updChan_ne s c d f hd, chan_updChan_self s c f hc⟩

/-- The effect of `CH.POLL` (rule R121). -/
def takeRequest (c : Nat) (s : State) : State :=
  s.updChan c fun x => { x with ps := false, phase := pRdcoil }

/-- `CH.POLL` takes up a request (rule R121). -/
theorem exec_chPoll_requested (c : Nat) (s : State) (hp : (s.chan c).phase = pIdle)
    (hps : (s.chan c).ps = true) : exec (.chPoll c) s = .next (takeRequest c s) :=
  if_pos ⟨hp, hps⟩

/-- `CH.POLL` of a busy or unrequested channel is no step (rule R121; log entry 3). -/
theorem exec_chPoll_unrequested (c : Nat) (s : State)
    (h : (s.chan c).phase ≠ pIdle ∨ (s.chan c).ps = false) : exec (.chPoll c) s = .next s := by
  refine if_neg ?_
  rintro ⟨hp, hps⟩
  obtain hbusy | hclear := h
  · exact hbusy hp
  · simp [hps] at hclear

/-- The effect of `CH.RDCOIL` on the channel's registers, by the coil `r` just read (rule R122). -/
def dispatchRegs (r : Bool) (x : Channel) : Channel :=
  { x with rq := r, phase := if r then pOrigin else if x.so then pIdle else pMstart }

theorem dispatchRegs_set (x : Channel) :
    dispatchRegs true x = { x with rq := true, phase := pOrigin } := rfl

theorem dispatchRegs_actuating (x : Channel) (h : x.so = true) :
    dispatchRegs false x = { x with rq := false, phase := pIdle } := by
  simp [dispatchRegs, h]

theorem dispatchRegs_clear (x : Channel) (h : x.so = false) :
    dispatchRegs false x = { x with rq := false, phase := pMstart } := by
  simp [dispatchRegs, h]

/-- `CH.RDCOIL` with its coil in the table has its effect. -/
theorem exec_chRdcoil (c : Nat) (s : State) (h : s.cfg.coil c < s.cfg.n) :
    exec (.chRdcoil c) s = .next (s.updChan c (dispatchRegs (originCoilRead s c))) :=
  if_pos h

/-- A coil that exists is read as it stands (rules R8 and R96). -/
theorem originCoilRead_eq (s : State) (c : Nat) (r : Bool)
    (h : s.table.coils[s.cfg.coil c]? = some r) : originCoilRead s c = r := by
  rw [originCoilRead, Table.read, h]
  exact bitElement_getLsbD r

/-- With no actuation in progress `CH.ORIGIN` and the row `ORG.START` begin one (rule R124). -/
theorem exec_origin_start (c : Nat) (s : State) (h : (s.chan c).so = false) :
    exec (.chOrigin c) s = .next (originStart c s.tick s) ∧
      exec (.orgStart c) s = .next (originStart c s.tick s) :=
  ⟨if_pos h, if_pos h⟩

/-- After the hold time `CH.ORIGIN` and the row `ORG.EXPIRE` end the actuation (rule R125). -/
theorem exec_origin_expire (c : Nat) (s : State) (h : (s.chan c).so = true)
    (hold : s.cfg.originTimeoutTicks < tickDiff s.cfg s.tick (s.chan c).oss) :
    exec (.chOrigin c) s = .next (originExpire c s) ∧
      exec (.orgExpire c) s = .next (originExpire c s) := by
  have hexp : originExpired s.cfg (tickRead s) (s.chan c).oss = true := (originExpired_iff ..).2 hold
  simp [exec, execChOrigin, execOrgExpire, h, hexp]

/-- Within the hold time `CH.ORIGIN` and the row `ORG.WAIT` only end the poll (rule R126). -/
theorem exec_origin_wait (c : Nat) (s : State) (h : (s.chan c).so = true)
    (hold : tickDiff s.cfg s.tick (s.chan c).oss ≤ s.cfg.originTimeoutTicks) :
    exec (.chOrigin c) s = .next (originWait c s) ∧
      exec (.orgWait c) s = .next (originWait c s) := by
  have hexp : originExpired s.cfg (tickRead s) (s.chan c).oss = false := by
    rw [← Bool.not_eq_true, originExpired_iff]
    exact Nat.not_lt.2 hold
  simp [exec, execChOrigin, execOrgWait, h, hexp]

/-- The effect of `CH.CLRCOIL`: the origin coil false, and the end of the poll (rule R127). -/
def clearCoil (c : Nat) (s : State) : State :=
  (s.memWrite .coil (s.cfg.coil c) [0]).setPhase c pIdle

/-- `CH.CLRCOIL` with its coil in the table has its effect. -/
theorem exec_chClrcoil (c : Nat) (s : State) (h : s.cfg.coil c < s.cfg.n) :
    exec (.chClrcoil c) s = .next (clearCoil c s) :=
  if_pos h

/-- The coils after `CH.CLRCOIL`: the origin coil is false, whatever it was. -/
theorem clearCoil_coils (c : Nat) (s : State) :
    (clearCoil c s).table.coils = s.table.coils.set (s.cfg.coil c) false := rfl

/-- Ticks counted from `oss` are what the difference of rule R219 gives, across the tick's wrap too. -/
theorem tickDiff_elapsed (k : Config) (oss n : Nat) (h : n < 2 ^ k.tickW) :
    tickDiff k ((oss + n) % 2 ^ k.tickW) oss = n := by
  rw [tickDiff, Int.natCast_mod, Int.emod_sub_emod, Int.natCast_add, add_sub_cancel_left,
    Int.emod_eq_of_lt (Int.natCast_nonneg n) (Int.ofNat_lt.2 h), Int.toNat_natCast]

/-- `tickDiff_elapsed` with the rules' 64 bits. -/
theorem tickDiff_elapsed_64 (k : Config) (oss n : Nat) (hw : k.tickW = 64) (h : n < 2 ^ 64) :
    tickDiff k ((oss + n) % 2 ^ 64) oss = n := by
  have helapsed := tickDiff_elapsed k oss n (by rw [hw]; exact h)
  rwa [hw] at helapsed

/-! ## What a step can do to a channel's registers -/

/-- How the registers of one channel can change in a step that is no reset, in the configuration `k` at
tick `now`. -/
inductive ChannelMove (k : Config) (now : Nat) (x : Channel) : Channel → Prop
  | stay : ChannelMove k now x x
  | request : ChannelMove k now x { x with ps := true }
  | poll (hp : x.phase = pIdle) (hps : x.ps = true) :
      ChannelMove k now x { x with ps := false, phase := pRdcoil }
  | dispatch (hp : x.phase = pRdcoil) (r : Bool) : ChannelMove k now x (dispatchRegs r x)
  | start (hp : x.phase = pOrigin) (hso : x.so = false) :
      ChannelMove k now x { x with org := true, oss := now, so := true, phase := pIdle }
  | expire (hp : x.phase = pOrigin) (hso : x.so = true)
      (hold : k.originTimeoutTicks < tickDiff k now x.oss) :
      ChannelMove k now x { x with org := false, so := false, phase := pClrcoil }
  | measure (hp : x.phase = pMstart) :
      ChannelMove k now x { x with req := true, ni := 0, bi := 0, t0 := now, phase := pWlow }
  | pass (hp : x.phase = pWlow) : ChannelMove k now x { x with t0 := now, phase := pWhigh }
  | sample (hp : x.phase = pWhigh) (b : Bool) : ChannelMove k now x (sampleRegs k b now x)
  | decode (hp : x.phase = pDecode) (v : Pattern) :
      ChannelMove k now x { x with val := v, phase := pWrite }
  | finish (r : BitVec 2) : ChannelMove k now x { x with res := r, phase := pIdle }

/-- The registers of every channel change in one of these ways. -/
def ChannelsMove (s t : State) : Prop :=
  ∀ d, ChannelMove s.cfg s.tick (s.chan d) (t.chan d)

theorem channelsMove_of_chans {s t : State} (h : t.chans = s.chans) : ChannelsMove s t := by
  intro d
  rw [chan_congr s t h d]
  exact .stay

/-- An update of one channel leaves the others where they are. -/
theorem channelsMove_updChan (s : State) (c : Nat) (f : Channel → Channel)
    (h : ChannelMove s.cfg s.tick (s.chan c) (f (s.chan c))) :
    ChannelsMove s (s.updChan c f) := by
  intro d
  rw [chan_updChan]
  split
  next hd => rw [hd.1]; exact h
  next => exact .stay

theorem channelsMove_requestAll (s : State) : ChannelsMove s s.requestAll := by
  intro d
  rcases Nat.lt_or_ge d s.chans.length with hd | hd
  · rw [chan_requestAll s d hd]
    exact .request
  · rw [chan_absent s d hd, chan_absent s.requestAll d (by simpa using hd)]
    exact .stay

/-- `NextHas.ite` where each branch may use the condition that selects it. -/
theorem NextHas.ite_of {P : State → Prop} {p : Prop} [Decidable p]
    {a b : Host.Outcome State Fault Refusal} (ha : p → NextHas P a) (hb : ¬ p → NextHas P b) :
    NextHas P (if p then a else b) := by
  split
  next h => exact ha h
  next h => exact hb h

/-- The operation that a channel's phase register selects moves that channel. -/
theorem exec_phase_moves {c : Nat} {s : State} {i : Instr}
    (hd : decode s.cfg (.s c (s.chan c).phase) = .ok i) : NextHas (ChannelsMove s) (exec i s) := by
  have hstay : NextHas (ChannelsMove s) (.next s) := .next (channelsMove_of_chans rfl)
  have hmove (f : Channel → Channel) (h : ChannelMove s.cfg s.tick (s.chan c) (f (s.chan c))) :
      NextHas (ChannelsMove s) (.next (s.updChan c f)) :=
    .next (channelsMove_updChan s c f h)
  have htimeout : NextHas (ChannelsMove s) (.next (takeFailure (.timeout c) s)) := by
    rw [takeFailure_timeout]
    exact hmove _ (.finish resTimeout)
  obtain ⟨hp, rfl⟩ | ⟨hp, rfl⟩ | ⟨hp, rfl⟩ | ⟨hp, rfl⟩ | ⟨hp, rfl⟩ | ⟨hp, rfl⟩ | ⟨hp, rfl⟩ |
    ⟨hp, rfl⟩ | ⟨hp, rfl⟩ := decodeS_cases _ _ _ _ hd
  · -- `CH.POLL`
    exact .ite_of (fun ⟨_, hps⟩ => hmove _ (.poll hp hps)) fun _ => hstay
  · -- `CH.RDCOIL`
    exact .ite (hmove _ (.dispatch hp _)) .refused
  · -- `CH.ORIGIN`
    refine .ite_of (fun hso => hmove _ (.start hp hso)) fun hso => .ite_of (fun hexp => ?_) fun _ => ?_
    · exact hmove _ (.expire hp (by simpa using hso) ((originExpired_iff ..).1 hexp))
    · exact hmove (fun x => { x with phase := pIdle }) (.finish (s.chan c).res)
  · -- `CH.CLRCOIL`
    exact .ite (.next (channelsMove_updChan (s.memWrite _ _ _) c _ (.finish (s.chan c).res))) .refused
  · -- `CH.MSTART`
    exact hmove _ (.measure hp)
  · -- `CH.WLOW`
    exact .ite (hmove _ (.pass hp)) (.ite htimeout hstay)
  · -- `CH.WHIGH`
    exact .ite (hmove _ (.sample hp _)) (.ite htimeout hstay)
  · -- `CH.DECODE`
    refine .ite (hmove _ (.decode hp _)) ?_
    rw [takeFailure_invalidStart]
    exact hmove _ (.finish resInvalidStart)
  · -- `CH.WRITE`
    exact .ite (.next (channelsMove_updChan (s.memWrite _ _ _) c _ (.finish resOk))) .refused

/-- No host command moves a channel (rule R204). -/
theorem exec_hostInstr_moves (cmd : BitVec 3) (a n : Nat) (s : State) :
    NextHas (ChannelsMove s) (exec (hostInstr cmd a n) s) := by
  intro t ht
  have hframe := (exec_hostInstr_frame cmd a n s t ht).eq
  exact channelsMove_of_chans (by rw [hframe])

/-- The Sequencer sets request flags, and moves the channels in no other way (rules R230 and R232). -/
theorem execSeqCh_moves (s : State) : NextHas (ChannelsMove s) (execSeqCh s) := by
  simp only [execSeqCh]
  split
  · refine .next ?_
    simp only [seqChSerial, nextChannel]
    split
    · split
      · exact channelsMove_updChan s s.qc (fun x => { x with ps := true }) .request
      · split <;> exact channelsMove_of_chans rfl
    · exact channelsMove_of_chans rfl
  · refine .next ?_
    simp only [seqChConcurrent]
    split
    · split
      · exact channelsMove_requestAll s
      · exact channelsMove_of_chans rfl
    · exact channelsMove_of_chans rfl

/-- The operation that the slot register selects moves channels only by requests. -/
theorem exec_slot_moves {s : State} {i : Instr} (hd : decode s.cfg (.q s.q) = .ok i) :
    NextHas (ChannelsMove s) (exec i s) := by
  have hleave (t : State) (h : t.chans = s.chans) : NextHas (ChannelsMove s) (.next t) :=
    .next (channelsMove_of_chans h)
  obtain ⟨-, rfl⟩ | ⟨-, rfl⟩ | ⟨-, rfl⟩ | ⟨-, rfl⟩ | ⟨-, rfl⟩ := decodeQ_cases _ _ _ hd
  · exact hleave _ rfl
  · exact hleave _ rfl
  · exact .ite (hleave _ rfl) (hleave _ rfl)
  · exact execSeqCh_moves s
  · intro t ht
    obtain rfl | ⟨u, hu, rfl⟩ := execSeqHost_next ht
    · exact channelsMove_of_chans rfl
    · exact exec_hostInstr_moves _ _ _ s u hu

/-- Every operation that a code of the state selects moves the channels in these ways only. -/
theorem exec_moves {s : State} {k : Code} {i : Instr} (hk : CodeSource s k)
    (hd : decode s.cfg k = .ok i) : NextHas (ChannelsMove s) (exec i s) := by
  have hleave (t : State) (h : t.chans = s.chans) : NextHas (ChannelsMove s) (.next t) :=
    .next (channelsMove_of_chans h)
  cases hk with
  | chan c => exact exec_phase_moves hd
  | slot => exact exec_slot_moves hd
  | glue e =>
    obtain rfl | rfl | rfl | rfl := decodeE_cases _ _ _ hd
    · exact hleave _ rfl
    · exact .ite (hleave _ rfl) (hleave _ rfl)
    · exact hleave _ rfl
    · exact .ite (hleave _ rfl) (hleave _ rfl)
  | host w =>
    rw [decode_host hd]
    exact exec_hostInstr_moves _ _ _ s
  | frame c w =>
    cases hd
    exact hleave _ rfl
  | value p =>
    cases hd
    exact .refused

/-- What a step can do to the registers of one channel: a reset gives them their reset values, and every
other step is a move. -/
theorem step_channel_cases {s t : State} (h : step s = .next t) (c : Nat) :
    (s.choosesReset ∧ ∃ m, t.chan c = Channel.reset m) ∨
      ChannelMove s.cfg s.tick (s.chan c) (t.chan c) := by
  cases stepCase_of_next h with
  | operation s1 k i hb hk hd hx =>
    have hmove := exec_moves hk hd t hx c
    rw [hb.cfg, hb.tick, hb.chan c] at hmove
    exact .inr hmove
  | quiet hb => exact .inr (channelsMove_of_chans hb.chans c)
  | reset hr s1 _ ht =>
    rw [ht]
    exact .inl ⟨hr, chan_resetIn_eq_reset s1.cfg c⟩
  | start d rest _ _ ht =>
    rw [ht]
    exact .inr (channelsMove_updChan s d (fun x => { x with ps := true }) .request c)

/-! ## The origin output (rules R124, R125 and R130) -/

/-- A received bit is no business of the origin registers. -/
theorem sampleRegs_origin (k : Config) (b : Bool) (now : Nat) (x : Channel) :
    (sampleRegs k b now x).org = x.org ∧ (sampleRegs k b now x).so = x.so ∧
      (sampleRegs k b now x).rq = x.rq := by
  simp only [sampleRegs]
  split <;> exact ⟨rfl, rfl, rfl⟩

/-- A move writes `org[c]` and `so[c]` together, the same value into both. -/
theorem ChannelMove.origin_agrees {k : Config} {now : Nat} {x y : Channel}
    (hm : ChannelMove k now x y) (h : x.org = x.so) : y.org = y.so := by
  cases hm with
  | start => rfl
  | expire => rfl
  | sample _ b =>
    obtain ⟨horg, hso, -⟩ := sampleRegs_origin k b now x
    rw [horg, hso, h]
  | _ => exact h

/-- The only move that clears the origin output is the expiry. -/
theorem ChannelMove.origin_falls {k : Config} {now : Nat} {x y : Channel}
    (hm : ChannelMove k now x y) (hx : x.org = true) (hy : y.org = false) :
    x.phase = pOrigin ∧ x.so = true ∧ k.originTimeoutTicks < tickDiff k now x.oss := by
  cases hm with
  | expire hp hso hold => exact ⟨hp, hso, hold⟩
  | start => cases hy
  | sample _ b =>
    rw [(sampleRegs_origin k b now x).1, hx] at hy
    cases hy
  | _ => exact absurd (hx.symm.trans hy) (by decide)

/-- Settles O56: every move keeps the agreement, and the reset values agree. -/
theorem everyStepKeepsOriginOutputsAgreeing :
    Obligations.EveryStepKeepsOriginOutputsAgreeing := by
  intro s t h hstep c
  obtain ⟨-, m, hreset⟩ | hmove := step_channel_cases hstep c
  · rw [hreset]
    rfl
  · exact hmove.origin_agrees (h c)

/-- Settles O17: the move that clears the output is the expiry. -/
theorem originOutputFallsOnlyAfterTheHold : Obligations.OriginOutputFallsOnlyAfterTheHold := by
  intro s t c hn hstep hx hy
  obtain ⟨hreset, -⟩ | hmove := step_channel_cases hstep c
  · exact absurd hreset hn
  · exact hmove.origin_falls hx hy

/-! ## The registers of a poll in each phase (rules R122, R131, R149 and R150) -/

section PollConsistent

variable {k : Config} {x : Channel}

theorem pollConsistent_of_idle (hp : x.phase = pIdle) : x.pollConsistent k := by
  simp [Channel.pollConsistent, Channel.measuring, hp]

theorem pollConsistent_of_rdcoil (hp : x.phase = pRdcoil) : x.pollConsistent k := by
  simp [Channel.pollConsistent, Channel.measuring, hp]

theorem pollConsistent_origin_iff (hp : x.phase = pOrigin) :
    x.pollConsistent k ↔ x.rq = true := by
  simp [Channel.pollConsistent, Channel.measuring, hp]

theorem pollConsistent_clrcoil_iff (hp : x.phase = pClrcoil) :
    x.pollConsistent k ↔ x.so = false := by
  simp [Channel.pollConsistent, Channel.measuring, hp]

theorem pollConsistent_mstart_iff (hp : x.phase = pMstart) :
    x.pollConsistent k ↔ x.rq = false ∧ x.so = false := by
  simp [Channel.pollConsistent, Channel.measuring, hp]

theorem pollConsistent_wait_iff (hp : x.phase = pWlow ∨ x.phase = pWhigh) :
    x.pollConsistent k ↔ (x.rq = false ∧ x.so = false) ∧ (x.req = true ↔ x.ni = 0) := by
  obtain hp | hp := hp <;> simp [Channel.pollConsistent, Channel.measuring, hp]

theorem pollConsistent_decode_iff (hp : x.phase = pDecode) :
    x.pollConsistent k ↔
      (x.rq = false ∧ x.so = false) ∧ x.ni.toNat = k.nnib - 1 ∧ x.bi = 0 ∧ x.req = false := by
  simp [Channel.pollConsistent, Channel.measuring, hp]

theorem pollConsistent_write_iff (hp : x.phase = pWrite) :
    x.pollConsistent k ↔ (x.rq = false ∧ x.so = false) ∧ x.req = false := by
  simp [Channel.pollConsistent, Channel.measuring, hp]

end PollConsistent

/-- The coil just read sends the poll to the phase that its value and `so[c]` allow (rule R122). -/
theorem dispatchRegs_pollConsistent (k : Config) (r : Bool) (x : Channel) :
    (dispatchRegs r x).pollConsistent k := by
  cases r with
  | true => exact (pollConsistent_origin_iff rfl).2 rfl
  | false =>
    cases hso : x.so with
    | true =>
      rw [dispatchRegs_actuating x hso]
      exact pollConsistent_of_idle rfl
    | false =>
      rw [dispatchRegs_clear x hso]
      exact (pollConsistent_mstart_iff rfl).2 ⟨rfl, hso⟩

/-- A received bit keeps the request output high exactly during nibble 0 (rules R131 and R149): the fourth
bit of nibble 0 lowers it as `ni` leaves 0, which `ni`, of four bits, does not reach again. -/
theorem sampleRegs_pollConsistent (k : Config) (b : Bool) (now : Nat) (x : Channel)
    (hk : k.nnib ≤ 16) (hni : x.ni.toNat ≤ k.nnib - 1) (hp : x.phase = pWhigh)
    (h : x.pollConsistent k) : (sampleRegs k b now x).pollConsistent k := by
  obtain ⟨hpoll, hreq⟩ := (pollConsistent_wait_iff (.inr hp)).1 h
  have hlow : (if x.ni = 0 then false else x.req) = false := by
    split
    next => rfl
    next hne => exact Bool.eq_false_iff.2 (mt hreq.1 hne)
  by_cases hbit : x.bi.toNat < 3
  · simp only [sampleRegs, if_pos hbit]
    exact (pollConsistent_wait_iff (.inl rfl)).2 ⟨hpoll, hreq⟩
  · by_cases hmore : x.ni.toNat < k.nnib - 1
    · have hnext : x.ni + 1 ≠ 0 := by bv_omega
      simp only [sampleRegs, if_neg hbit, if_pos hmore, hlow]
      exact (pollConsistent_wait_iff (.inl rfl)).2 ⟨hpoll, iff_of_false Bool.false_ne_true hnext⟩
    · simp only [sampleRegs, if_neg hbit, if_neg hmore, hlow]
      exact (pollConsistent_decode_iff rfl).2 ⟨hpoll, hni.antisymm (Nat.not_lt.1 hmore), rfl, rfl⟩

/-- Every move of a channel with a legal `ni` keeps what its registers say of its poll. -/
theorem ChannelMove.pollConsistent {k : Config} {now : Nat} {x y : Channel}
    (hm : ChannelMove k now x y) (hk : k.nnib ≤ 16) (hni : x.ni.toNat ≤ k.nnib - 1)
    (h : x.pollConsistent k) : y.pollConsistent k := by
  cases hm with
  | stay => exact h
  | request => exact h
  | poll => exact pollConsistent_of_rdcoil rfl
  | dispatch _ r => exact dispatchRegs_pollConsistent k r x
  | start => exact pollConsistent_of_idle rfl
  | expire => exact (pollConsistent_clrcoil_iff rfl).2 rfl
  | measure hp =>
    have hpoll := (pollConsistent_mstart_iff hp).1 h
    exact (pollConsistent_wait_iff (.inl rfl)).2 ⟨hpoll, by simp⟩
  | pass hp =>
    exact (pollConsistent_wait_iff (.inr rfl)).2 ((pollConsistent_wait_iff (.inl hp)).1 h)
  | sample hp b => exact sampleRegs_pollConsistent k b now x hk hni hp h
  | decode hp v =>
    obtain ⟨hpoll, -, -, hreq⟩ := (pollConsistent_decode_iff hp).1 h
    exact (pollConsistent_write_iff rfl).2 ⟨hpoll, hreq⟩
  | finish r => exact pollConsistent_of_idle rfl

/-- Settles O57: every move keeps it, and a channel at its reset value is in no poll. -/
theorem everyStepKeepsPollsConsistent : Obligations.EveryStepKeepsPollsConsistent := by
  intro s t hk hlegal h hstep c
  obtain ⟨hcfg, -⟩ := discreteInputsAndConfigurationNeverChange s t hstep
  obtain ⟨-, hni, -⟩ := hlegal.1 c
  rw [hcfg]
  obtain ⟨-, m, hreset⟩ | hmove := step_channel_cases hstep c
  · rw [hreset]
    exact channelReset_pollConsistent s.cfg m
  · exact hmove.pollConsistent hk hni (h c)

/-! ## The statements about single operations -/

/-- Settles O16: the two steps are one update of the channel's registers, by the coil that is read. -/
theorem clearedCoilLeavesTheActuation : Obligations.ClearedCoilLeavesTheActuation := by
  intro c s r hc hcoil hr hp hps hso
  have hread : originCoilRead (takeRequest c s) c = r := originCoilRead_eq _ c r hr
  have hregs : ((takeRequest c s).updChan c (dispatchRegs r)).chan c =
      dispatchRegs r { s.chan c with ps := false, phase := pRdcoil } := by
    rw [takeRequest, updChan_updChan _ _ _ _ hc, chan_updChan_self _ _ _ hc]
  refine ⟨takeRequest c s, (takeRequest c s).updChan c (dispatchRegs r),
    exec_chPoll_requested c s hp hps, ?_, rfl, fun d hd => ?_, fun hclear => ?_, fun hset => ?_⟩
  · rw [exec_chRdcoil c (takeRequest c s) hcoil, hread]
  · rw [chan_updChan_ne _ c d _ hd, takeRequest, chan_updChan_ne s c d _ hd]
  · rw [hregs, hclear]
    exact dispatchRegs_actuating _ hso
  · subst hset
    refine ⟨hregs, fun hold => ?_⟩
    obtain ⟨hexpire, -⟩ := exec_origin_expire c ((takeRequest c s).updChan c (dispatchRegs true))
      (by rw [hregs]; exact hso) (by rw [hregs]; exact hold)
    refine ⟨_, hexpire, ?_⟩
    rw [originExpire, chan_updChan_self _ c _ (by simpa [takeRequest] using hc), hregs]
    rfl

/-- Settles O12: the request is the condition that `CH.POLL` tests. -/
theorem pollTakesUpTheRequest : Obligations.PollTakesUpTheRequest := by
  intro c s hc
  exact ⟨fun hp hps => ⟨_, exec_chPoll_requested c s hp hps, rfl, chan_updChan_self s c _ hc,
    fun d hd => chan_updChan_ne s c d _ hd⟩, exec_chPoll_unrequested c s⟩

/-- Settles O13: the three dispatches are the cases of `dispatchRegs`. -/
theorem coilReadDispatchesThePoll : Obligations.CoilReadDispatchesThePoll := by
  intro c s r hc hcoil hr
  have hregs := chan_updChan_self s c (dispatchRegs r) hc
  refine ⟨s.updChan c (dispatchRegs r), ?_, rfl, fun d hd => chan_updChan_ne s c d _ hd,
    fun hset => ?_, fun hclear hso => ?_, fun hclear hso => ?_⟩
  · rw [exec_chRdcoil c s hcoil, originCoilRead_eq s c r hr]
  · rw [hregs, hset, dispatchRegs_set]
  · rw [hregs, hclear, dispatchRegs_actuating _ hso]
  · rw [hregs, hclear, dispatchRegs_clear _ hso]

/-- Settles O14: the elapsed ticks at `oss + 10001` and `oss + 10000` are 10 001 and 10 000. -/
theorem originStepTakesItsOutcome : Obligations.OriginStepTakesItsOutcome := by
  intro c s hc
  refine ⟨fun hso => ?start, fun hso hold => ?expire, fun hso hold => ?wait⟩
  case start =>
    obtain ⟨hstep, hrow⟩ := exec_origin_start c s hso
    exact ⟨_, hstep, hrow, updChan_frame c s _ hc⟩
  case expire =>
    have helapsed : s.cfg.originTimeoutTicks < tickDiff s.cfg s.tick (s.chan c).oss := by
      obtain hold | ⟨htimeout, hw, htick⟩ := hold
      · exact hold
      · rw [htick, tickDiff_elapsed_64 _ _ _ hw (by norm_num), htimeout]
        norm_num
    obtain ⟨hstep, hrow⟩ := exec_origin_expire c s hso helapsed
    exact ⟨_, hstep, hrow, updChan_frame c s _ hc⟩
  case wait =>
    have helapsed : tickDiff s.cfg s.tick (s.chan c).oss ≤ s.cfg.originTimeoutTicks := by
      obtain hold | ⟨htimeout, hw, htick⟩ := hold
      · exact hold
      · rw [htick, tickDiff_elapsed_64 _ _ _ hw (by norm_num), htimeout]
    obtain ⟨hstep, hrow⟩ := exec_origin_wait c s hso helapsed
    exact ⟨_, hstep, hrow, updChan_frame c s (fun x => { x with phase := pIdle }) hc⟩

/-- Settles O15: the write sets one entry of the coils, and the other spaces stay. -/
theorem coilClearClearsOnlyTheOriginCoil : Obligations.CoilClearClearsOnlyTheOriginCoil := by
  intro c s hc hcoil hlen
  refine ⟨clearCoil c s, exec_chClrcoil c s hcoil, rfl, memWrite_coil_frame .., ?_, fun i hi => ?_,
    chan_setPhase_self _ c _ hc, fun d hd => chan_setPhase_ne _ c d _ hd⟩
  · rw [clearCoil_coils, List.getElem?_set_self hlen]
  · rw [clearCoil_coils, List.getElem?_set_ne hi.symm]

end Sys2Proof.Machine

/-! SUPPORT. What the operations of the measurement cycle do (rules R141 to R150): the start, the two
waits for the clock and the sample; and from that the statements about them. -/

namespace Sys2Proof.Machine

/-! ## The start (rule R141) -/

/-- `CH.MSTART` raises the request and starts the first half-wait at the tick of this step. -/
theorem exec_chMstart (c : Nat) (s : State) :
    exec (.chMstart c) s = .next (s.updChan c fun x =>
      { x with req := true, ni := 0, bi := 0, t0 := s.tick, phase := pWlow }) := rfl

/-! ## The two waits for the clock (rules R142 to R148) -/

/-- Within its budget a wait has not timed out (rule R152). -/
theorem timedOut_eq_false_iff (k : Config) (now t0 : Nat) :
    timedOut k now t0 = false ↔ tickDiff k now t0 ≤ k.bitTimeoutTicks := by
  rw [← Bool.not_eq_true, timedOut_iff, Nat.not_lt]

/-- A timeout ends the poll of its channel and leaves everything else (rules R144, R147 and R248). -/
theorem takeFailure_timeout_frame (c : Nat) (s : State) (hc : c < s.chans.length) :
    takeFailure (.timeout c) s = { s with chans := (takeFailure (.timeout c) s).chans } ∧
      (takeFailure (.timeout c) s).chan c = { s.chan c with res := resTimeout, phase := pIdle } ∧
      ∀ d, d ≠ c → (takeFailure (.timeout c) s).chan d = s.chan d := by
  rw [takeFailure_timeout]
  obtain ⟨hrest, hothers, hown⟩ := updChan_frame c s _ hc
  exact ⟨hrest, hown, hothers⟩

/-- On a high clock `CH.WLOW` and the row `WLOW.PASS` begin the high-phase wait (rule R143). -/
theorem exec_wlow_pass (c : Nat) (s : State) (hclk : pinReadClk s c = true) :
    exec (.chWlow c) s = .next (lowPass c s.tick s) ∧
      exec (.wlowPass c) s = .next (lowPass c s.tick s) :=
  ⟨if_pos hclk, if_pos hclk⟩

/-- On a low clock after the budget `CH.WLOW` and the row `WLOW.TIMEOUT` end the poll (rule R144). -/
theorem exec_wlow_timeout (c : Nat) (s : State) (hclk : pinReadClk s c = false)
    (hover : s.cfg.bitTimeoutTicks < tickDiff s.cfg s.tick (s.chan c).t0) :
    exec (.chWlow c) s = .next (takeFailure (.timeout c) s) ∧
      exec (.wlowTimeout c) s = .next (takeFailure (.timeout c) s) := by
  have htimed : timedOut s.cfg (tickRead s) (s.chan c).t0 = true := (timedOut_iff ..).2 hover
  simp [exec, execChWlow, execWlowTimeout, hclk, htimed]

/-- On a low clock within the budget `CH.WLOW` and the row `WLOW.STAY` change nothing (rule R145). -/
theorem exec_wlow_stay (c : Nat) (s : State) (hclk : pinReadClk s c = false)
    (hwithin : tickDiff s.cfg s.tick (s.chan c).t0 ≤ s.cfg.bitTimeoutTicks) :
    exec (.chWlow c) s = .next s ∧ exec (.wlowStay c) s = .next s := by
  have htimed : timedOut s.cfg (tickRead s) (s.chan c).t0 = false :=
    (timedOut_eq_false_iff ..).2 hwithin
  simp [exec, execChWlow, execWlowStay, hclk, htimed]

/-- On a low clock `CH.WHIGH` and the row `WHIGH.SAMPLE` take the data bit (rule R146). -/
theorem exec_whigh_sample (c : Nat) (s : State) (hclk : pinReadClk s c = false) :
    exec (.chWhigh c) s = .next (highSample c (pinReadDat s c) s.tick s) ∧
      exec (.whighSample c) s = .next (highSample c (pinReadDat s c) s.tick s) :=
  ⟨if_pos hclk, if_pos hclk⟩

/-- On a high clock after the budget `CH.WHIGH` and the row `WHIGH.TIMEOUT` end the poll (rule R147). -/
theorem exec_whigh_timeout (c : Nat) (s : State) (hclk : pinReadClk s c = true)
    (hover : s.cfg.bitTimeoutTicks < tickDiff s.cfg s.tick (s.chan c).t0) :
    exec (.chWhigh c) s = .next (takeFailure (.timeout c) s) ∧
      exec (.whighTimeout c) s = .next (takeFailure (.timeout c) s) := by
  have htimed : timedOut s.cfg (tickRead s) (s.chan c).t0 = true := (timedOut_iff ..).2 hover
  simp [exec, execChWhigh, execWhighTimeout, hclk, htimed]

/-- On a high clock within the budget `CH.WHIGH` and the row `WHIGH.STAY` change nothing (rule R148). -/
theorem exec_whigh_stay (c : Nat) (s : State) (hclk : pinReadClk s c = true)
    (hwithin : tickDiff s.cfg s.tick (s.chan c).t0 ≤ s.cfg.bitTimeoutTicks) :
    exec (.chWhigh c) s = .next s ∧ exec (.whighStay c) s = .next s := by
  have htimed : timedOut s.cfg (tickRead s) (s.chan c).t0 = false :=
    (timedOut_eq_false_iff ..).2 hwithin
  simp [exec, execChWhigh, execWhighStay, hclk, htimed]

/-! ## A complete nibble (rules R146, R149 and R150) -/

/-- A nibble before the last one: the channel goes on to the next nibble. -/
theorem nibbleRegs_more (k : Config) (n : Nibble) (now : Nat) (x : Channel)
    (h : x.ni.toNat < k.nnib - 1) :
    nibbleRegs k n now x =
      { x with
        acc := n, t0 := now, bi := 0, ni := x.ni + 1, phase := pWlow, nib := x.nib.set x.ni.toNat n
        req := if x.ni = 0 then false else x.req } := by
  simp only [nibbleRegs, if_pos h]

/-- The last nibble: the frame is complete and `ni` stays. -/
theorem nibbleRegs_complete (k : Config) (n : Nibble) (now : Nat) (x : Channel)
    (h : k.nnib - 1 ≤ x.ni.toNat) :
    nibbleRegs k n now x =
      { x with
        acc := n, t0 := now, bi := 0, phase := pDecode, nib := x.nib.set x.ni.toNat n
        req := if x.ni = 0 then false else x.req } := by
  simp only [nibbleRegs, if_neg (Nat.not_lt.2 h)]

/-- The buffer after a nibble: its entry `ni` is the nibble, and the others stay. -/
theorem nibbleRegs_nib_getElem? (k : Config) (n : Nibble) (now : Nat) (x : Channel) (i : Nat)
    (h : i < x.nib.length) :
    (nibbleRegs k n now x).nib[i]? = if i = x.ni.toNat then some n else x.nib[i]? := by
  rw [nibbleRegs, List.getElem?_set]
  by_cases hi : x.ni.toNat = i
  · subst hi
    simp [h]
  · rw [if_neg hi, if_neg (Ne.symm hi)]

/-! ## The statements about the measurement cycle -/

/-- Settles O18: the step is one update of the channel's registers. -/
theorem measurementStartRaisesTheRequest : Obligations.MeasurementStartRaisesTheRequest := by
  intro c s hc
  exact ⟨_, exec_chMstart c s, rfl, chan_updChan_self s c _ hc,
    fun d hd => chan_updChan_ne s c d _ hd⟩

/-- Settles O19: each outcome is the step's and the row's. -/
theorem lowPhaseWait : Obligations.LowPhaseWait := by
  intro c s hc
  refine ⟨fun hclk => ?pass, fun hclk hover => ?timeout, exec_wlow_stay c s⟩
  case pass =>
    obtain ⟨hstep, hrow⟩ := exec_wlow_pass c s hclk
    exact ⟨_, hstep, hrow, rfl, chan_updChan_self s c _ hc, fun d hd => chan_updChan_ne s c d _ hd⟩
  case timeout =>
    obtain ⟨hstep, hrow⟩ := exec_wlow_timeout c s hclk hover
    exact ⟨_, hstep, hrow, takeFailure_timeout_frame c s hc⟩

/-- Settles O20: each outcome is the step's and the row's. -/
theorem highPhaseWait : Obligations.HighPhaseWait := by
  intro c s hc
  refine ⟨fun hclk => ⟨_, exec_whigh_sample c s hclk⟩, fun hclk hover => ?timeout,
    exec_whigh_stay c s⟩
  case timeout =>
    obtain ⟨hstep, hrow⟩ := exec_whigh_timeout c s hclk hover
    exact ⟨_, hstep, hrow, takeFailure_timeout_frame c s hc⟩

/-- Settles O21: the fourth bit, in one of two cases of `ni`, leaves `nibbleRegs`. -/
theorem sampleShiftsTheBitIn : Obligations.SampleShiftsTheBitIn := by
  intro c s a hc hlen ha
  change a = accumulate (s.chan c).acc (pinReadDat s c) at ha
  subst ha
  refine ⟨fun hclk => ?low, fun hclk => ?high⟩
  case low =>
    obtain ⟨hstep, hrow⟩ := exec_whigh_sample c s hclk
    obtain ⟨hrest, hothers, hown⟩ := updChan_frame c s (sampleRegs s.cfg (pinReadDat s c) s.tick) hc
    have hlast (h3 : (s.chan c).bi = 3) := hown.trans (sampleRegs_last s.cfg _ s.tick _ h3)
    refine ⟨_, hrow, hstep, hrest, hothers, fun hbi => ?within, fun h3 hmore => ?more,
      fun h3 hend => ?complete, fun h3 i hi => ?buffer⟩
    case within => exact hown.trans (sampleRegs_within _ _ _ _ hbi)
    case more =>
      rw [highSample, hlast h3, nibbleRegs_more _ _ _ _ hmore]
    case complete =>
      rw [highSample, hlast h3, nibbleRegs_complete _ _ _ _ hend]
    case buffer =>
      rw [highSample, hlast h3, nibbleRegs_nib_getElem? _ _ _ _ _ (hi.trans_eq hlen.symm)]
  case high =>
    split
    next hover =>
      obtain ⟨hstep, hrow⟩ := exec_whigh_timeout c s hclk hover
      rw [hstep, hrow]
    next hwithin =>
      obtain ⟨hstep, hrow⟩ := exec_whigh_stay c s hclk (Nat.not_lt.1 hwithin)
      rw [hstep, hrow]

end Sys2Proof.Machine

/-! SUPPORT. What a decode makes of the fields of a frame (rules R170 to R178); and from that the
statements about its two outcomes and the magnitude. -/

namespace Sys2Proof.Machine

/-! ## The fields of a received frame (rules R84, R172 and R173) -/

/-- The start marker is good exactly when each of its four nibbles is `0xF`. -/
theorem frameStartOk_cons_iff (n0 n1 n2 n3 : Nibble) (others : List Nibble) :
    frameStartOk (n0 :: n1 :: n2 :: n3 :: others) = true ↔
      n0 = 0xF ∧ n1 = 0xF ∧ n2 = 0xF ∧ n3 = 0xF := by
  simp [frameStartOk, nibAt, and_assoc]

/-- The magnitude is the weighted sum of the six digits after the marker and the sign (rule R173). -/
theorem frameMagnitude_append (front : List Nibble) (d0 d1 d2 d3 d4 d5 : Nibble)
    (others : List Nibble) (h : front.length = 5) :
    frameMagnitude (front ++ d0 :: d1 :: d2 :: d3 :: d4 :: d5 :: others) =
      d0.toNat * 100000 + d1.toNat * 10000 + d2.toNat * 1000 + d3.toNat * 100 + d4.toNat * 10 +
        d5.toNat := by
  simp [frameMagnitude, nibAt, List.getElem?_append_right, h]

/-- The value of a frame from its sign, digits and decimal point (rules R172 to R178). -/
theorem frameValue_fields (k : Config) (sign d0 d1 d2 d3 d4 d5 dp : Nibble) (others : List Nibble) :
    frameValue k (0xF :: 0xF :: 0xF :: 0xF :: sign :: d0 :: d1 :: d2 :: d3 :: d4 :: d5 :: dp :: others) =
      f32OfRatio k.negZero (decide (sign = 0x8))
        (d0.toNat * 100000 + d1.toNat * 10000 + d2.toNat * 1000 + d3.toNat * 100 + d4.toNat * 10 +
          d5.toNat) (10 ^ dp.toNat) := by
  have hmagnitude := frameMagnitude_append [0xF, 0xF, 0xF, 0xF, sign] d0 d1 d2 d3 d4 d5
    (dp :: others) rfl
  exact congrArg (f32OfRatio k.negZero (decide (sign = 0x8)) · (10 ^ dp.toNat)) hmagnitude

/-! ## The two outcomes of a decode (rules R171 and R178) -/

/-- On a bad start marker `CH.DECODE` and the row `DEC.INVALID` end the poll (rule R171). -/
theorem exec_decode_invalid (c : Nat) (s : State) (hbad : frameStartOk (s.chan c).nib = false) :
    exec (.decInvalid c) s = .next (takeFailure (.invalidStart c) s) ∧
      exec (.chDecode c) s = .next (takeFailure (.invalidStart c) s) :=
  ⟨if_pos hbad, if_neg (by simp [hbad])⟩

/-- On a good start marker `CH.DECODE` and the row `DEC.OK` decode the frame (rule R178). -/
theorem exec_decode_ok (c : Nat) (s : State) (hok : frameStartOk (s.chan c).nib = true) :
    exec (.decOk c) s = .next (decodeFrame c s) ∧ exec (.chDecode c) s = .next (decodeFrame c s) :=
  ⟨if_pos hok, if_pos hok⟩

/-- Settles O27: one wrong nibble makes the marker bad, and the failure writes two registers. -/
theorem badStartMarkerIsInvalid : Obligations.BadStartMarkerIsInvalid := by
  intro c s n0 n1 n2 n3 others hc hnib hwrong
  have hbad : frameStartOk (s.chan c).nib = false := by
    rw [← Bool.not_eq_true, hnib, frameStartOk_cons_iff]
    tauto
  obtain ⟨hrow, hstep⟩ := exec_decode_invalid c s hbad
  rw [takeFailure_invalidStart] at hrow hstep
  obtain ⟨hrest, hothers, hown⟩ := updChan_frame c s _ hc
  exact ⟨_, hrow, hstep, hrest, hown, hothers⟩

/-- Settles O28: the decode is one update of the channel, with the value of the frame's fields. -/
theorem goodFrameIsDecoded : Obligations.GoodFrameIsDecoded := by
  intro c s sign d0 d1 d2 d3 d4 d5 dp others hc hnib
  have hok : frameStartOk (s.chan c).nib = true := by
    rw [hnib, frameStartOk_cons_iff]
    exact ⟨rfl, rfl, rfl, rfl⟩
  obtain ⟨hrow, hstep⟩ := exec_decode_ok c s hok
  obtain ⟨hrest, hothers, hown⟩ :=
    updChan_frame c s (fun x => { x with val := frameValue s.cfg x.nib, phase := pWrite }) hc
  refine ⟨_, hrow, hstep, hrest, ?_, hothers⟩
  rw [← frameValue_fields s.cfg sign d0 d1 d2 d3 d4 d5 dp others, ← hnib]
  exact hown

/-- Settles O29: six digits of at most 15, or at most 9, in the weighted sum. -/
theorem magnitudeIsTheDigitSum : Obligations.MagnitudeIsTheDigitSum := by
  intro front d0 d1 d2 d3 d4 d5 others nib hfront hnib
  rw [hnib, frameMagnitude_append front d0 d1 d2 d3 d4 d5 others hfront]
  have h0 := d0.isLt
  have h1 := d1.isLt
  have h2 := d2.isLt
  have h3 := d3.isLt
  have h4 := d4.isLt
  have h5 := d5.isLt
  refine ⟨rfl, by omega, by omega, fun hdecimal => ?_⟩
  simp only [List.forall_mem_cons] at hdecimal
  omega

end Sys2Proof.Machine

/-! SUPPORT. How the value of a pattern follows from its fields (rule R90), and which whole number the
rounding of `f32_of_ratio` gives (rule R177); and from that the statement that the block's pattern is the
nearest one. -/

namespace Sys2Proof.Machine

/-! ## Rounding to nearest, ties to even (rule R177) -/

/-- On a tie the rounded quotient is even. -/
theorem roundedQuotient_even_of_tie (num den : Nat) (hden : 0 < den)
    (htie : 2 * num = 2 * (roundedQuotient num den * den) + den ∨
      2 * (roundedQuotient num den * den) = 2 * num + den) : roundedQuotient num den % 2 = 0 := by
  have hdiv := Nat.div_add_mod' num den
  have hlt := Nat.mod_lt num hden
  simp only [roundedQuotient] at htie ⊢
  split at htie
  next hup =>
    rw [if_pos hup]
    rw [Nat.add_mul] at htie
    omega
  next hdown =>
    rw [if_neg hdown]
    omega

/-- The rounded quotient is within one half of the exact quotient. -/
theorem abs_roundedQuotient_sub_le (num den : Nat) (hden : 0 < den) :
    |(roundedQuotient num den : ℚ) - num / den| ≤ 1 / 2 := by
  obtain ⟨hup, hdown⟩ := roundedQuotient_spec num den hden
  have hdenq : (0 : ℚ) < den := by exact_mod_cast hden
  have hupq : 2 * (num : ℚ) ≤ 2 * (roundedQuotient num den * den) + den := by exact_mod_cast hup
  have hdownq : 2 * (roundedQuotient num den * den : ℚ) ≤ 2 * num + den := by exact_mod_cast hdown
  rw [abs_sub_le_iff, sub_le_iff_le_add, sub_le_iff_le_add, div_le_iff₀ hdenq, ← sub_le_iff_le_add',
    le_div_iff₀ hdenq]
  constructor <;> linarith

/-- The rounded quotient is even where it is one half away from the exact quotient. -/
theorem roundedQuotient_even_of_half (num den : Nat) (hden : 0 < den)
    (hhalf : |(roundedQuotient num den : ℚ) - num / den| = 1 / 2) :
    roundedQuotient num den % 2 = 0 := by
  have hdenq : (den : ℚ) ≠ 0 := by exact_mod_cast hden.ne'
  refine roundedQuotient_even_of_tie num den hden ?_
  obtain hover | hunder := (abs_eq (by norm_num)).1 hhalf
  · right
    field_simp at hover
    have hover' : 2 * (roundedQuotient num den * den : ℚ) = 2 * num + den := by linarith
    exact_mod_cast hover'
  · left
    field_simp at hunder
    have hunder' : 2 * (num : ℚ) = 2 * (roundedQuotient num den * den) + den := by linarith
    exact_mod_cast hunder'

/-- No whole number is nearer to the exact quotient than the rounded one, and where another one is as
near the rounded one is even. -/
theorem roundedQuotient_nearest (num den n : Nat) (hden : 0 < den) :
    |(roundedQuotient num den : ℚ) - num / den| ≤ |(n : ℚ) - num / den| ∧
      (|(roundedQuotient num den : ℚ) - num / den| = |(n : ℚ) - num / den| →
        n ≠ roundedQuotient num den → roundedQuotient num den % 2 = 0) := by
  have hhalf := abs_roundedQuotient_sub_le num den hden
  by_cases hn : n = roundedQuotient num den
  · rw [hn]
    exact ⟨le_rfl, fun _ hne => absurd rfl hne⟩
  · have hapart : (1 : ℚ) ≤ |(n : ℚ) - roundedQuotient num den| := by
      have hint : (1 : ℤ) ≤ |(n : ℤ) - roundedQuotient num den| :=
        Int.one_le_abs (by omega)
      exact_mod_cast hint
    have htriangle := abs_sub_le (n : ℚ) (num / den) (roundedQuotient num den)
    rw [abs_sub_comm ((num : ℚ) / den)] at htriangle
    refine ⟨by linarith, fun htie _ => roundedQuotient_even_of_half num den hden ?_⟩
    linarith

/-- The same against any number below `2^23`, if the quotient is at least that: `2^23` itself is nearer. -/
theorem roundedQuotient_nearest_or_below (num den : Nat) (hden : 0 < den)
    (hlow : 2 ^ 23 * den ≤ num) (y : ℚ) (hy : y < 2 ^ 23 ∨ ∃ n : Nat, y = n) :
    |(roundedQuotient num den : ℚ) - num / den| ≤ |y - num / den| ∧
      (|(roundedQuotient num den : ℚ) - num / den| = |y - num / den| →
        y ≠ roundedQuotient num den → roundedQuotient num den % 2 = 0) := by
  obtain hbelow | ⟨n, rfl⟩ := hy
  · have hquotient : (2 : ℚ) ^ 23 ≤ num / den := by
      rw [le_div_iff₀ (by exact_mod_cast hden)]
      exact_mod_cast hlow
    have hnear := (roundedQuotient_nearest num den (2 ^ 23) hden).1
    have hfar : |((2 ^ 23 : Nat) : ℚ) - num / den| < |y - num / den| := by
      push_cast
      rw [abs_of_nonpos (by linarith), abs_of_neg (by linarith)]
      linarith
    exact ⟨(hnear.trans_lt hfar).le, fun htie => absurd htie (hnear.trans_lt hfar).ne⟩
  · obtain ⟨hnear, heven⟩ := roundedQuotient_nearest num den n hden
    exact ⟨hnear, fun htie hne => heven htie (by exact_mod_cast hne)⟩

/-! ## The value of a pattern (rule R90) -/

/-- The factor `(-1)^s`. -/
def signFactor (s : Bool) : ℚ := if s then -1 else 1

theorem signFactor_mul_self (s : Bool) : signFactor s * signFactor s = 1 := by
  cases s <;> norm_num [signFactor]

theorem signFactor_mul_of_ne {s t : Bool} (h : s ≠ t) : signFactor s * signFactor t = -1 := by
  obtain rfl := Bool.eq_not_of_ne h
  cases t <;> norm_num [signFactor]

theorem signFactor_injective : Function.Injective signFactor := by
  intro s t h
  by_contra hne
  have hopposite := signFactor_mul_of_ne hne
  rw [h, signFactor_mul_self] at hopposite
  norm_num at hopposite

theorem signFactor_ne_zero (s : Bool) : signFactor s ≠ 0 := by
  cases s <;> norm_num [signFactor]

theorem abs_signFactor_mul (s : Bool) (a : ℚ) : |signFactor s * a| = |a| := by
  cases s <;> simp [signFactor]

/-- The fraction with its hidden bit, `2^23 + f`. -/
def patternSignificand (v : Pattern) : Nat := 2 ^ 23 + patternFraction v

theorem patternSignificand_bounds (v : Pattern) :
    2 ^ 23 ≤ patternSignificand v ∧ patternSignificand v < 2 ^ 24 := by
  have hfraction : patternFraction v < 2 ^ 23 := (v.extractLsb' 0 23).isLt
  simp only [patternSignificand]
  omega

/-- The value of a pattern as a whole number of its last places. -/
theorem patternValue_eq (v : Pattern) :
    patternValue v =
      signFactor (v.getLsbD 31) *
        (patternSignificand v * (2 : ℚ) ^ ((patternExponent v : ℤ) - 127 - 23)) := by
  have hscale : (2 : ℚ) ^ ((patternExponent v : ℤ) - 127 - 23) =
      2 ^ ((patternExponent v : ℤ) - 127) / 2 ^ 23 := zpow_sub₀ two_ne_zero _ 23
  rw [hscale, patternSignificand, patternValue, ← signFactor]
  push_cast
  ring

/-- A pattern is its sign, its exponent and its significand. -/
theorem pattern_ext {v w : Pattern} (hsign : v.getLsbD 31 = w.getLsbD 31)
    (hexp : patternExponent v = patternExponent w)
    (hsig : patternSignificand v = patternSignificand w) : v = w := by
  have hs : v.extractLsb' 31 1 = w.extractLsb' 31 1 := by
    refine BitVec.eq_of_getLsbD_eq fun i hi => ?_
    obtain rfl : i = 0 := by omega
    simpa using hsign
  have he : v.extractLsb' 23 8 = w.extractLsb' 23 8 := BitVec.eq_of_toNat_eq hexp
  have hf : v.extractLsb' 0 23 = w.extractLsb' 0 23 :=
    BitVec.eq_of_toNat_eq (Nat.add_left_cancel hsig)
  rw [← valueFields_append v, ← valueFields_append w, hs, he, hf]

/-- The last bit of a pattern is the parity of its significand. -/
theorem getLsbD_zero_of_even {v : Pattern} (h : patternSignificand v % 2 = 0) :
    v.getLsbD 0 = false := by
  have hfraction : patternFraction v % 2 = 0 := by
    simp only [patternSignificand] at h
    omega
  have hbit : v.getLsbD 0 = (patternFraction v).testBit 0 := by
    rw [patternFraction, BitVec.testBit_toNat]
    simp
  rw [hbit, Nat.testBit_zero, hfraction]
  rfl

/-- A significand times a negative power of two is below every significand. -/
theorem significand_mul_zpow_lt {m : Nat} {j : ℤ} (hm : m < 2 ^ 24) (hj : j < 0) :
    (m : ℚ) * 2 ^ j < 2 ^ 23 := by
  have hmq : (m : ℚ) < 2 ^ 24 := by exact_mod_cast hm
  calc (m : ℚ) * 2 ^ j ≤ m * 2 ^ (-1 : ℤ) := by
        gcongr
        · norm_num
        · omega
    _ < 2 ^ 24 * 2 ^ (-1 : ℤ) := by gcongr
    _ = 2 ^ 23 := by norm_num

/-- Two equal magnitudes have the same exponent: the significand of the lower one would have to be too
large. -/
theorem exponent_le_of_eq {m n : Nat} {i j : ℤ} (hm : m < 2 ^ 24) (hn : 2 ^ 23 ≤ n)
    (h : (m : ℚ) * 2 ^ i = n * 2 ^ j) : j ≤ i := by
  by_contra hlt
  have hsmall := significand_mul_zpow_lt (j := i - j) hm (by omega)
  have hn' : (m : ℚ) * 2 ^ (i - j) = n := by
    rw [zpow_sub₀ two_ne_zero, ← mul_div_assoc, h]
    field_simp
  rw [hn'] at hsmall
  exact absurd hn (not_le.2 (by exact_mod_cast hsmall))

/-- Patterns of the same value are the same pattern. -/
theorem patternValue_injective : Function.Injective patternValue := by
  intro v w h
  obtain ⟨hvlow, hvhigh⟩ := patternSignificand_bounds v
  obtain ⟨hwlow, hwhigh⟩ := patternSignificand_bounds w
  rw [patternValue_eq, patternValue_eq] at h
  have hwpos : (0 : ℚ) < patternSignificand w := by exact_mod_cast (by omega)
  have hmagnitude := congrArg abs h
  rw [abs_signFactor_mul, abs_signFactor_mul, abs_of_nonneg (by positivity),
    abs_of_nonneg (by positivity)] at hmagnitude
  have hle := exponent_le_of_eq hvhigh hwlow hmagnitude
  have hge := exponent_le_of_eq hwhigh hvlow hmagnitude.symm
  have hexp : patternExponent v = patternExponent w := by omega
  rw [hexp] at h hmagnitude
  have hpow : (2 : ℚ) ^ ((patternExponent w : ℤ) - 127 - 23) ≠ 0 := by positivity
  have hsig : patternSignificand v = patternSignificand w := by
    exact_mod_cast mul_right_cancel₀ hpow hmagnitude
  have hsign : signFactor (v.getLsbD 31) = signFactor (w.getLsbD 31) := by
    rw [hsig] at h
    exact mul_right_cancel₀ (by positivity) h
  exact pattern_ext (signFactor_injective hsign) hexp hsig

/-- Counted in the last places of an exponent `e`, with either sign, the value of a pattern is a whole
number or below every significand of that exponent. -/
theorem patternValue_scaled (neg : Bool) (w : Pattern) (e : ℤ) :
    signFactor neg * patternValue w * 2 ^ (23 - e) < 2 ^ 23 ∨
      ∃ n : Nat, signFactor neg * patternValue w * 2 ^ (23 - e) = n := by
  have hscaled : signFactor neg * patternValue w * 2 ^ (23 - e) =
      signFactor neg * signFactor (w.getLsbD 31) *
        (patternSignificand w * 2 ^ ((patternExponent w : ℤ) - 127 - e)) := by
    rw [show (patternExponent w : ℤ) - 127 - e = (patternExponent w : ℤ) - 127 - 23 + (23 - e) by ring,
      zpow_add₀ two_ne_zero, patternValue_eq]
    ring
  rw [hscaled]
  by_cases hsign : neg = w.getLsbD 31
  · rw [hsign, signFactor_mul_self, one_mul]
    rcases lt_or_ge ((patternExponent w : ℤ) - 127 - e) 0 with hj | hj
    · exact .inl (significand_mul_zpow_lt (patternSignificand_bounds w).2 hj)
    · obtain ⟨j, hj⟩ := Int.eq_ofNat_of_zero_le hj
      exact .inr ⟨patternSignificand w * 2 ^ j, by rw [hj]; push_cast; rfl⟩
  · left
    rw [signFactor_mul_of_ne hsign]
    have hpos : (0 : ℚ) ≤ patternSignificand w * 2 ^ ((patternExponent w : ℤ) - 127 - e) := by
      positivity
    linarith

/-! ## The pattern of a ratio (rules R90 and R177) -/

theorem f32Pack_fraction (neg : Bool) (e : ℤ) (q : Nat) (he : (e + 127).toNat < 2 ^ 8)
    (hq : q - 2 ^ 23 < 2 ^ 23) : patternFraction (f32Pack neg e q) = q - 2 ^ 23 := by
  have hpack : f32Pack neg e q = _ := shiftedFields_eq_append neg _ _ he hq
  rw [patternFraction, hpack, BitVec.extractLsb'_append_eq_right, BitVec.toNat_ofNat,
    Nat.mod_eq_of_lt hq]

/-- A packed pattern is normal and has the sign, the exponent and the significand that it is packed
from. -/
theorem f32Pack_spec (neg : Bool) {e : ℤ} {q : Nat} (hlow : -126 ≤ e) (hhigh : e ≤ 127)
    (hqlow : 2 ^ 23 ≤ q) (hqhigh : q < 2 ^ 24) :
    normalPattern (f32Pack neg e q) ∧ patternSignificand (f32Pack neg e q) = q ∧
      patternValue (f32Pack neg e q) = signFactor neg * (q * 2 ^ (e - 23)) := by
  obtain ⟨hexp, hsign⟩ := f32Pack_fields neg e q (by omega) (by omega)
  have hsig : patternSignificand (f32Pack neg e q) = q := by
    rw [patternSignificand, f32Pack_fraction neg e q (by omega) (by omega)]
    omega
  refine ⟨?_, hsig, ?_⟩
  · rw [normalPattern, hexp]
    omega
  · rw [patternValue_eq, hexp, hsign, hsig]
    congr 3
    omega

/-- The scaled quotient of a ratio, rounded. -/
def ratioQuotient (M D : Nat) : Nat :=
  roundedQuotient (f32Num M (f32Exponent M D)) (f32Den D (f32Exponent M D))

/-- The pattern of a non-zero frame: its value is the rounded quotient in last places, also where the
quotient is rounded up to the next exponent, and its last bit follows the quotient's parity. -/
theorem f32OfRatio_spec (negZero neg : Bool) (M p : Nat) (hM : 0 < M) (hmax : M ≤ 1666665)
    (hp : p ≤ 15) :
    normalPattern (f32OfRatio negZero neg M (10 ^ p)) ∧
      patternValue (f32OfRatio negZero neg M (10 ^ p)) =
        signFactor neg * (ratioQuotient M (10 ^ p) * 2 ^ (f32Exponent M (10 ^ p) - 23)) ∧
      (ratioQuotient M (10 ^ p) % 2 = 0 →
        (f32OfRatio negZero neg M (10 ^ p)).getLsbD 0 = false) := by
  have hD : 0 < 10 ^ p := by positivity
  obtain ⟨hlow, hhigh⟩ := f32Exponent_range M p hM hmax hp
  obtain ⟨hnumlow, hnumhigh⟩ := scaled_range M (10 ^ p) hM hD
  obtain ⟨hqlow, hqhigh⟩ := roundedQuotient_bounds _ _ _ _ (f32_scaled M _ _ hD).2 hnumlow hnumhigh
  simp only [f32OfRatio, if_neg hM.ne', ratioQuotient]
  split
  next hround =>
    obtain ⟨hnormal, hsig, hvalue⟩ :=
      f32Pack_spec neg (e := f32Exponent M (10 ^ p) + 1) (q := 2 ^ 23) (by omega) (by omega) le_rfl
        (by norm_num)
    refine ⟨hnormal, ?_, fun _ => getLsbD_zero_of_even (by rw [hsig]; rfl)⟩
    rw [hvalue, hround, show f32Exponent M (10 ^ p) + 1 - 23 = f32Exponent M (10 ^ p) - 23 + 1 by ring,
      zpow_add_one₀ two_ne_zero]
    push_cast
    ring
  next hround =>
    obtain ⟨hnormal, hsig, hvalue⟩ :=
      f32Pack_spec neg (e := f32Exponent M (10 ^ p)) (by omega) (by omega) hqlow (by omega)
    exact ⟨hnormal, hvalue, fun heven => getLsbD_zero_of_even (by rw [hsig]; exact heven)⟩

theorem two_zpow_mul_two_zpow_neg (e : ℤ) : (2 : ℚ) ^ (23 - e) * 2 ^ (e - 23) = 1 := by
  rw [← zpow_add₀ two_ne_zero, show 23 - e + (e - 23) = 0 by ring, zpow_zero]

/-- The distance of a pattern's value from a signed ratio is the distance in last places of `e`, where
`R` is the ratio in last places. -/
theorem abs_sub_signed_ratio (neg : Bool) (y R : ℚ) (e : ℤ) :
    |y - signFactor neg * (R * 2 ^ (e - 23))| =
      |signFactor neg * y * 2 ^ (23 - e) - R| * 2 ^ (e - 23) := by
  have hpow : (0 : ℚ) < 2 ^ (e - 23) := by positivity
  have hinv := two_zpow_mul_two_zpow_neg e
  have hfactor : y - signFactor neg * (R * 2 ^ (e - 23)) =
      signFactor neg * ((signFactor neg * y * 2 ^ (23 - e) - R) * 2 ^ (e - 23)) := by
    linear_combination (-y) * signFactor_mul_self neg - signFactor neg * signFactor neg * y * hinv
  rw [hfactor, abs_signFactor_mul, abs_mul, abs_of_pos hpow]

/-- Settles O30: in last places of the ratio's exponent every other value is a whole number or below all
significands, and the rounded quotient is nearest among those. -/
theorem ratioIsRoundedToNearestEven : Obligations.RatioIsRoundedToNearestEven := by
  intro negZero neg M p hM hmax hp x v hx hv
  subst hv
  obtain ⟨hnormal, hvalue, heven⟩ := f32OfRatio_spec negZero neg M p hM hmax hp
  refine ⟨hnormal, fun w _ => ?_⟩
  have hD : 0 < 10 ^ p := by positivity
  have hlow := (scaled_range M (10 ^ p) hM hD).1
  simp only [ratioQuotient] at hvalue heven
  generalize f32OfRatio negZero neg M (10 ^ p) = v at hvalue heven ⊢
  generalize f32Exponent M (10 ^ p) = e at hvalue heven hlow
  obtain ⟨hscaled, hden⟩ := f32_scaled M (10 ^ p) e hD
  have hunit : (2 : ℚ) ^ (23 - e) * 2 ^ (e - 23) = 1 := two_zpow_mul_two_zpow_neg e
  have hpow : (0 : ℚ) < 2 ^ (e - 23) := by positivity
  have hratio : x = signFactor neg * ((f32Num M e : ℚ) / f32Den (10 ^ p) e * 2 ^ (e - 23)) := by
    rw [hscaled, mul_assoc, hunit, mul_one, hx, signFactor]
    push_cast
    rfl
  have hquotient : signFactor neg * patternValue v * 2 ^ (23 - e) =
      roundedQuotient (f32Num M e) (f32Den (10 ^ p) e) := by
    rw [hvalue, ← mul_assoc, signFactor_mul_self, one_mul, mul_assoc, mul_comm ((2 : ℚ) ^ (e - 23)),
      hunit, mul_one]
  obtain ⟨hnear, htie⟩ := roundedQuotient_nearest_or_below _ _ hden hlow _
    (patternValue_scaled neg w e)
  rw [hratio, abs_sub_signed_ratio, abs_sub_signed_ratio, hquotient]
  refine ⟨mul_le_mul_of_nonneg_right hnear hpow.le, fun heq hne => heven (htie ?_ ?_)⟩
  · exact mul_right_cancel₀ hpow.ne' heq
  · intro hsame
    rw [← hquotient] at hsame
    exact hne (patternValue_injective
      (mul_left_cancel₀ (signFactor_ne_zero neg) (mul_right_cancel₀ (by positivity) hsame)))

end Sys2Proof.Machine

/-! SUPPORT. Which operations of a channel touch the table, and with what effect (rules R181 and R262);
and from that the statements about its access rights and about the input registers. -/

namespace Sys2Proof.Machine

/-! ## The table after an operation of a channel -/

/-- The table after an operation of channel `c` on `s` that ends in `t`: unchanged, or `CH.CLRCOIL` has had
its effect, or `CH.WRITE` has. -/
inductive ChannelTable (c : Nat) (s : State) (i : Instr) (t : State) : Prop
  | kept (h : t.table = s.table)
  | coil (hi : i = .chClrcoil c) (ht : t = clearCoil c s)
  | pair (hi : i = .chWrite c) (ht : t = writeValue c s)

/-- Of the operations of a channel only `CH.CLRCOIL` and `CH.WRITE` touch the table. -/
theorem exec_channelTable {i : Instr} {c : Nat} (hi : channelOf i = some c) (s : State) :
    NextHas (ChannelTable c s i) (exec i s) := by
  have hkept (t : State) (h : t.table = s.table) : NextHas (ChannelTable c s i) (.next t) :=
    .next (.kept h)
  have hfailure (f : Failure) : NextHas (ChannelTable c s i) (.next (takeFailure f s)) :=
    hkept _ (takeFailure_table f s)
  cases i <;> cases hi
  case chPoll => exact .ite (hkept _ rfl) (hkept _ rfl)
  case chRdcoil => exact .ite (hkept _ rfl) .refused
  case chOrigin => exact .ite (hkept _ rfl) (.ite (hkept _ rfl) (hkept _ rfl))
  case orgStart => exact .ite (hkept _ rfl) (hkept _ rfl)
  case orgExpire => exact .ite (hkept _ rfl) (hkept _ rfl)
  case orgWait => exact .ite (hkept _ rfl) (hkept _ rfl)
  case chClrcoil => exact .ite (.next (.coil rfl rfl)) .refused
  case chMstart => exact hkept _ rfl
  case chWlow => exact .ite (hkept _ rfl) (.ite (hfailure _) (hkept _ rfl))
  case wlowPass => exact .ite (hkept _ rfl) (hkept _ rfl)
  case wlowTimeout => exact .ite (hfailure _) (hkept _ rfl)
  case wlowStay => exact hkept _ rfl
  case chWhigh => exact .ite (hkept _ rfl) (.ite (hfailure _) (hkept _ rfl))
  case whighSample => exact .ite (hkept _ rfl) (hkept _ rfl)
  case whighTimeout => exact .ite (hfailure _) (hkept _ rfl)
  case whighStay => exact hkept _ rfl
  case chDecode => exact .ite (hkept _ rfl) (hfailure _)
  case decInvalid => exact .ite (hfailure _) (hkept _ rfl)
  case decOk => exact .ite (hkept _ rfl) (hkept _ rfl)
  case chWrite => exact .ite (.next (.pair rfl rfl)) .refused

/-- A coil after `CH.CLRCOIL`, in a table of any length: unchanged, or the origin coil and false. -/
theorem clearCoil_coils_getElem? (c : Nat) (s : State) (k : Nat) :
    (clearCoil c s).table.coils[k]? = s.table.coils[k]? ∨
      (k = s.cfg.coil c ∧ (clearCoil c s).table.coils[k]? = some false) := by
  rw [clearCoil_coils]
  by_cases hk : k = s.cfg.coil c
  · subst hk
    rcases Nat.lt_or_ge (s.cfg.coil c) s.table.coils.length with hlen | hlen
    · exact .inr ⟨rfl, List.getElem?_set_self hlen⟩
    · exact .inl (by rw [List.set_eq_of_length_le hlen])
  · exact .inl (List.getElem?_set_ne (Ne.symm hk))

/-- An input register outside the pair after `CH.WRITE`, in a table of any length. -/
theorem writeValue_inputs_other (c : Nat) (s : State) (k : Nat) (hfirst : k ≠ s.cfg.base c)
    (hsecond : k ≠ s.cfg.base c + 1) :
    (writeValue c s).table.inputs[k]? = s.table.inputs[k]? :=
  (List.getElem?_set_ne hsecond.symm).trans (List.getElem?_set_ne hfirst.symm)

/-- Settles O50: the registers by the channel's frame, the table by the three things it can be. -/
theorem channelAccessRights : Obligations.ChannelAccessRights := by
  intro i c s t hi hx
  obtain ⟨hrest, hothers, hdiscrete⟩ := exec_channelFrame hi s t hx
  refine ⟨hrest, hothers, hdiscrete, ?_⟩
  cases exec_channelTable hi s t hx with
  | kept h =>
    rw [h]
    exact ⟨rfl, fun _ => .inl rfl, fun _ _ _ => rfl, fun hne => absurd rfl hne⟩
  | coil hi ht =>
    subst ht
    exact ⟨memWrite_holding _ _ _ _ (by decide), clearCoil_coils_getElem? c s, fun _ _ _ => rfl,
      fun _ => .inl hi⟩
  | pair hi ht =>
    subst ht
    exact ⟨memWrite_holding _ _ _ _ (by decide), fun _ => .inl rfl, writeValue_inputs_other c s,
      fun _ => .inr hi⟩

/-! ## The input registers after a step -/

theorem phase_of_decode_chWrite {k : Config} {c d : Nat} {p : BitVec 4}
    (h : decode k (.s c p) = .ok (.chWrite d)) : p = pWrite := by
  obtain ⟨hphase, -⟩ : p = pWrite ∧ d = c := by simpa using decodeS_cases k c p _ h
  exact hphase

/-- The input registers are unchanged, or a channel in `P_WRITE` has written its value. -/
def InputsWritten (s t : State) : Prop :=
  t.table.inputs = s.table.inputs ∨ ∃ c, (s.chan c).phase = pWrite ∧ t = writeValue c s

theorem exec_phase_inputs {c : Nat} {s : State} {i : Instr}
    (hd : decode s.cfg (.s c (s.chan c).phase) = .ok i) : NextHas (InputsWritten s) (exec i s) := by
  intro t hx
  cases exec_channelTable (channelOf_decode_phase hd) s t hx with
  | kept h => exact .inl (by rw [h])
  | coil hi ht =>
    subst ht
    exact .inl (memWrite_inputs _ _ _ _ (by decide))
  | pair hi ht =>
    subst hi
    exact .inr ⟨c, phase_of_decode_chWrite hd, ht⟩

theorem exec_slot_inputs {s : State} {i : Instr} (hd : decode s.cfg (.q s.q) = .ok i) :
    NextHas (InputsWritten s) (exec i s) := by
  have hleave (t : State) (h : t.table = s.table) : NextHas (InputsWritten s) (.next t) :=
    .next (.inl (by rw [h]))
  obtain ⟨-, rfl⟩ | ⟨-, rfl⟩ | ⟨-, rfl⟩ | ⟨-, rfl⟩ | ⟨-, rfl⟩ := decodeQ_cases _ _ _ hd
  · exact hleave _ rfl
  · exact hleave _ rfl
  · exact .ite (hleave _ rfl) (hleave _ rfl)
  · intro t ht
    exact .inl (by rw [execSeqCh_frame ht])
  · intro t ht
    obtain rfl | ⟨u, hu, rfl⟩ := execSeqHost_next ht
    · exact .inl rfl
    · exact .inl (exec_hostInstr_frame _ _ _ s u hu).inputs

/-- Every operation that a code of the state selects writes input registers only by `CH.WRITE`. -/
theorem exec_inputs {s : State} {k : Code} {i : Instr} (hk : CodeSource s k)
    (hd : decode s.cfg k = .ok i) : NextHas (InputsWritten s) (exec i s) := by
  have hleave (t : State) (h : t.table = s.table) : NextHas (InputsWritten s) (.next t) :=
    .next (.inl (by rw [h]))
  cases hk with
  | chan c => exact exec_phase_inputs hd
  | slot => exact exec_slot_inputs hd
  | glue e =>
    obtain rfl | rfl | rfl | rfl := decodeE_cases _ _ _ hd
    · exact hleave _ rfl
    · exact .ite (hleave _ rfl) (hleave _ rfl)
    · exact hleave _ rfl
    · exact .ite (hleave _ rfl) (hleave _ rfl)
  | host w =>
    rw [decode_host hd]
    exact fun t ht => .inl (exec_hostInstr_frame _ _ _ s t ht).inputs
  | frame c w =>
    cases hd
    exact hleave _ rfl
  | value p =>
    cases hd
    exact .refused

/-- A channel that is not idle exists. -/
theorem lt_of_phase_ne_idle {s : State} {c : Nat} (h : (s.chan c).phase ≠ pIdle) :
    c < s.chans.length := by
  by_contra hc
  rw [chan_absent s c (Nat.not_lt.1 hc)] at h
  exact h rfl

/-- Settles O60: a step that is no reset changes the table only by an operation, and of the operations
only `CH.WRITE` reaches input registers, those of its channel's pair. -/
theorem onlyAWriteStepChangesInputRegisters :
    Obligations.OnlyAWriteStepChangesInputRegisters := by
  intro s t k hn hstep hchanged
  cases stepCase_of_next hstep with
  | operation s1 code i hb hk hd hx =>
    rw [← hb.table] at hchanged
    obtain hkept | ⟨c, hphase, rfl⟩ := exec_inputs hk hd t hx
    · exact absurd (by rw [hkept]) hchanged
    · have hc : c < s1.chans.length := lt_of_phase_ne_idle (by rw [hphase]; decide)
      have hown : (writeValue c s1).chan c = { s1.chan c with res := resOk, phase := pIdle } :=
        chan_updChan_self _ c _ hc
      refine ⟨c, by rw [← hb.chan c, hphase], by rw [hown], by rw [hown], ?_⟩
      rw [← hb.cfg]
      by_contra hother
      obtain ⟨hfirst, hsecond⟩ := not_or.1 hother
      exact hchanged (writeValue_inputs_other c s1 k hfirst hsecond)
  | quiet hb => exact absurd (by rw [hb.table]) hchanged
  | reset hr => exact absurd hr hn
  | start c rest _ _ ht =>
    subst ht
    exact absurd rfl hchanged

end Sys2Proof.Machine

/-! SUPPORT. What an answer on the host port depends on (rules R191 and R204), once for the admission of a
command with any effect; and from that the statements about the port's reach and the illegal codes. -/

namespace Sys2Proof.Machine

/-! ## The two illegal codes (rules R200 and R247) -/

/-- The refusal of a command as unsupported changes only the response and the model's counter of free
values. -/
theorem unsupported_frame (s : State) :
    (takeFailure .unsupported s).answered = { s with
      hStatus := hsUnsupported, hRdata := (takeFailure .unsupported s).answered.hRdata,
      hDone := true, hValid := (takeFailure .unsupported s).answered.hValid,
      free := (takeFailure .unsupported s).answered.free } := rfl

/-- Settles O39: both codes are the refusal, without a test of the bounds. -/
theorem illegalCommandsAreUnsupported : Obligations.IllegalCommandsAreUnsupported :=
  fun _ _ s => ⟨_, _, rfl, rfl, unsupported_frame s, unsupported_frame s⟩

/-! ## The fields of an admitted command's answer (rule R191) -/

/-- An admitted command is answered, whatever its bounds. -/
@[simp] theorem hostAdmit_hDone (addr count : Nat) (f : State → State) (s : State) :
    (hostAdmit addr count f s).hDone = true := by
  simp only [hostAdmit]
  split <;> rfl

/-- The status is decided by the bounds alone. -/
theorem hostAdmit_hStatus (addr count : Nat) (f : State → State) (s : State) :
    (hostAdmit addr count f s).hStatus =
      if inBounds s.cfg addr count then hsOk else hsTableAccessFailure := by
  simp only [hostAdmit]
  split <;> rfl

/-- The table is the effect's in range, and unchanged out of range. -/
theorem hostAdmit_table (addr count : Nat) (f : State → State) (s : State) :
    (hostAdmit addr count f s).table =
      if inBounds s.cfg addr count then (f s).table else s.table := by
  simp only [hostAdmit]
  split <;> simp

/-- `HS_OK` is the answer exactly in range. -/
theorem hostAdmit_hStatus_ok_iff (addr count : Nat) (f : State → State) (s : State) :
    (hostAdmit addr count f s).hStatus = hsOk ↔ 1 ≤ count ∧ addr + count ≤ s.cfg.n := by
  rw [hostAdmit_hStatus, ← inBounds_iff]
  split
  next h => exact iff_of_true rfl h
  next h => exact iff_of_false (by decide) h

/-! ## What the port reaches (rule R204) -/

/-- Two states agree on all that the status, the table and the delivered data of a host command depend
on: the table, its size and the write data. -/
structure HostInputsAgree (s1 s2 : State) : Prop where
  n : s1.cfg.n = s2.cfg.n
  table : s1.table = s2.table
  hWdata : s1.hWdata = s2.hWdata

/-- The bounds are tested against the size of the table alone (rule R192). -/
theorem HostInputsAgree.inBounds {s1 s2 : State} (h : HostInputsAgree s1 s2) (addr count : Nat) :
    inBounds s1.cfg addr count = inBounds s2.cfg addr count := by
  rw [Machine.inBounds, Machine.inBounds, h.n]

/-- The answers `t1` on `s1` and `t2` on another state are the same status and table, and the one on `s1`
keeps to the host's frame. -/
structure SameAnswer (s1 t1 t2 : State) : Prop where
  frame : HostFrame s1 t1
  hDone : t1.hDone = true
  table : t1.table = t2.table
  hStatus : t1.hStatus = t2.hStatus

/-- An admitted command whose effect leaves the same table answers the same. -/
theorem sameAnswer_admit {s1 s2 : State} (h : HostInputsAgree s1 s2) (addr count : Nat)
    {f : State → State} (hframe : HostFrame s1 (f s1)) (htable : (f s1).table = (f s2).table) :
    SameAnswer s1 (hostAdmit addr count f s1) (hostAdmit addr count f s2) where
  frame := hostFrame_admit addr count f s1 hframe
  hDone := hostAdmit_hDone addr count f s1
  table := by rw [hostAdmit_table, hostAdmit_table, h.inBounds, h.table, htable]
  hStatus := by rw [hostAdmit_hStatus, hostAdmit_hStatus, h.inBounds]

/-- A read leaves the table as it is in both states. -/
theorem sameAnswer_read {s1 s2 : State} (h : HostInputsAgree s1 s2) (sp : Space)
    (addr count : Nat) :
    SameAnswer s1 (hostAdmit addr count (hostRead sp addr count) s1)
      (hostAdmit addr count (hostRead sp addr count) s2) :=
  sameAnswer_admit h addr count (hostFrame_read sp addr count s1) h.table

/-- A write stores the same data in the same table. -/
theorem sameAnswer_write {s1 s2 : State} (h : HostInputsAgree s1 s2) {sp : Space}
    (hdisc : sp ≠ .disc) (hireg : sp ≠ .ireg) (addr count : Nat) :
    SameAnswer s1 (hostAdmit addr count (hostWrite sp addr count) s1)
      (hostAdmit addr count (hostWrite sp addr count) s2) := by
  refine sameAnswer_admit h addr count (hostFrame_write sp addr count s1 hdisc hireg) ?_
  rw [hostWrite, hostWrite, memWrite_table, memWrite_table, writeData, writeData, h.table, h.hWdata]

/-- The refusal as unsupported depends on nothing. -/
theorem sameAnswer_unsupported {s1 s2 : State} (h : HostInputsAgree s1 s2) :
    SameAnswer s1 (takeFailure .unsupported s1).answered (takeFailure .unsupported s2).answered where
  frame := hostFrame_unsupported s1
  hDone := rfl
  table := h.table
  hStatus := rfl

/-- A read that succeeds delivers the same elements. -/
theorem HostInputsAgree.hRdata {s1 s2 : State} (h : HostInputsAgree s1 s2) (sp : Space)
    (addr count : Nat)
    (hok : (hostAdmit addr count (hostRead sp addr count) s1).hStatus = hsOk) (j : Nat)
    (hj : j < count) :
    (hostAdmit addr count (hostRead sp addr count) s1).hRdata[j]? =
      (hostAdmit addr count (hostRead sp addr count) s2).hRdata[j]? := by
  obtain ⟨-, hn⟩ := (hostAdmit_hStatus_ok_iff addr count _ s1).1 hok
  rw [hostAdmit_read_hRdata sp addr count s1 hn j hj,
    hostAdmit_read_hRdata sp addr count s2 (h.n ▸ hn) j hj, h.table]

/-- The four reads are the admission of a read of one space (rules R194 to R197). -/
theorem exec_hostRead_of_mem {addr count : Nat} {i : Instr}
    (hi : i ∈ [.hRdc addr count, .hRdd addr count, .hRdh addr count, .hRdi addr count]) :
    ∃ sp, ∀ s, exec i s = .next (hostAdmit addr count (hostRead sp addr count) s) := by
  simp only [List.mem_cons, List.not_mem_nil, or_false] at hi
  obtain rfl | rfl | rfl | rfl := hi
  · exact ⟨.coil, fun _ => rfl⟩
  · exact ⟨.disc, fun _ => rfl⟩
  · exact ⟨.hold, fun _ => rfl⟩
  · exact ⟨.ireg, fun _ => rfl⟩

/-- The other four commands are no reads, and answer the same in states that agree (rules R198 to R200). -/
theorem exec_hostOther_of_mem {s1 s2 : State} (h : HostInputsAgree s1 s2) {addr count : Nat}
    {i : Instr}
    (hi : i ∈ [.hWrc addr count, .hIll5 addr count, .hWrh addr count, .hIll7 addr count]) :
    i ∉ [.hRdc addr count, .hRdd addr count, .hRdh addr count, .hRdi addr count] ∧
      ∃ t1 t2, exec i s1 = .next t1 ∧ exec i s2 = .next t2 ∧ SameAnswer s1 t1 t2 := by
  simp only [List.mem_cons, List.not_mem_nil, or_false] at hi
  obtain rfl | rfl | rfl | rfl := hi
  · exact ⟨by simp, _, _, rfl, rfl, sameAnswer_write h (by decide) (by decide) addr count⟩
  · exact ⟨by simp, _, _, rfl, rfl, sameAnswer_unsupported h⟩
  · exact ⟨by simp, _, _, rfl, rfl, sameAnswer_write h (by decide) (by decide) addr count⟩
  · exact ⟨by simp, _, _, rfl, rfl, sameAnswer_unsupported h⟩

/-- Settles O41: every command keeps to the host's frame, and answers from the table, its size and the
write data alone. -/
theorem hostReachesOnlyTheTable : Obligations.HostReachesOnlyTheTable := by
  intro addr count i reads others hreads hothers hi s1 s2 hn htable hdata _
  have hagree : HostInputsAgree s1 s2 := ⟨hn, htable, hdata⟩
  suffices hcommand : ∃ t1 t2, exec i s1 = .next t1 ∧ exec i s2 = .next t2 ∧ SameAnswer s1 t1 t2 ∧
      (i ∈ reads → t1.hStatus = hsOk → ∀ j : Nat, j < count → t1.hRdata[j]? = t2.hRdata[j]?) by
    obtain ⟨t1, t2, h1, h2, hsame, hdelivered⟩ := hcommand
    exact ⟨t1, t2, h1, h2, hsame.hDone ▸ hsame.frame.eq, hsame.frame.discrete, hsame.frame.inputs,
      hsame.table, hsame.hStatus, hdelivered⟩
  subst hreads hothers
  obtain hread | hother := List.mem_append.1 hi
  · obtain ⟨sp, hexec⟩ := exec_hostRead_of_mem hread
    exact ⟨_, _, hexec s1, hexec s2, sameAnswer_read hagree sp addr count,
      fun _ => hagree.hRdata sp addr count⟩
  · obtain ⟨hnotRead, t1, t2, h1, h2, hsame⟩ := exec_hostOther_of_mem hagree hother
    exact ⟨t1, t2, h1, h2, hsame, fun hread => absurd hread hnotRead⟩

end Sys2Proof.Machine

/-! SUPPORT. What the tick's difference is (rule R219), and what the adapter's handler and each slot of the
Sequencer do, one equation for each condition that a rule tests (rules R222 and R227 to R232); and from
that the statements about the adapter's flag, the tick's difference and the Sequencer. -/

namespace Sys2Proof.Machine

/-! ## The adapter's handler (rule R222) -/

/-- The adapter's handler sets the flag where its latch is set. -/
theorem exec_adpSet_pending (s : State) (h : s.adpIrqPend = true) :
    exec .adpSet s = .next (takeAdapterInterrupt s) :=
  if_pos h

/-- The adapter's handler has no step where its latch is clear. -/
theorem exec_adpSet_clear (s : State) (h : s.adpIrqPend = false) : exec .adpSet s = .next s :=
  if_neg (by simp [h])

/-- Settles O43: the event, and the handler by whether its latch is set. -/
theorem adapterHandlerSetsTheFlag : Obligations.AdapterHandlerSetsTheFlag := fun s =>
  ⟨rfl, exec_adpSet_pending s, exec_adpSet_clear s⟩

/-! ## The difference of two ticks (rule R219) -/

/-- As an integer, the difference is the remainder itself: a remainder is never negative. -/
theorem tickDiff_cast (k : Config) (a b : Nat) :
    (tickDiff k a b : Int) = ((a : Int) - b) % ((2 ^ k.tickW : Nat) : Int) :=
  Int.toNat_of_nonneg (Int.emod_nonneg _ (Int.natCast_ne_zero.2 (Nat.two_pow_pos _).ne'))

/-- The difference is a number of `TICK_W` bits. -/
theorem tickDiff_lt (k : Config) (a b : Nat) : tickDiff k a b < 2 ^ k.tickW := by
  rw [← Int.ofNat_lt, tickDiff_cast]
  exact Int.emod_lt_of_pos _ (Int.natCast_pos.2 (Nat.two_pow_pos _))

/-- Adding the subtracted tick back gives the other one, modulo `2^TICK_W`. -/
theorem tickDiff_add_mod (k : Config) (a b : Nat) :
    (tickDiff k a b + b) % 2 ^ k.tickW = a % 2 ^ k.tickW := by
  rw [← Int.natCast_inj, Int.natCast_mod, Int.natCast_mod, Int.natCast_add, tickDiff_cast,
    Int.emod_add_emod, sub_add_cancel]

/-- Where no wrap lies between the ticks the difference is the plain one. -/
theorem tickDiff_of_le (k : Config) (a b : Nat) (hle : b ≤ a) (hlt : a - b < 2 ^ k.tickW) :
    tickDiff k a b = a - b := by
  rw [← Int.natCast_inj, tickDiff_cast, ← Int.natCast_sub hle, ← Int.natCast_mod,
    Nat.mod_eq_of_lt hlt]

/-- Settles O44: the bound, the law and the case without a wrap. -/
theorem tickDifferenceIsModular : Obligations.TickDifferenceIsModular := fun k a b =>
  ⟨tickDiff_lt k a b, tickDiff_add_mod k a b, tickDiff_of_le k a b⟩

/-! ## The slots before the channels (rules R227 to R229) -/

/-- The output `net_adv_start` is the slot `Q_NETADV` (rule R229). -/
theorem netAdvStart_iff (s : State) : netAdvStart s = true ↔ s.q = qNetadv :=
  beq_iff_eq

/-- `SEQ.NETADV` goes on to channel 0 once the network side is done. -/
theorem exec_seqNetadv_done (s : State) (h : s.netAdvDone = true) :
    exec .seqNetadv s = .next { s with qc := 0, qs := false, q := qCh } :=
  if_pos h

/-- `SEQ.NETADV` has no step before the network side is done. -/
theorem exec_seqNetadv_waits (s : State) (h : s.netAdvDone = false) :
    exec .seqNetadv s = .next s :=
  if_neg (by simp [h])

/-- Settles O45: the first two slots test nothing, and the third waits for the network side. -/
theorem sequencerOpensTheIteration : Obligations.SequencerOpensTheIteration := fun s =>
  ⟨netAdvStart_iff s, rfl, rfl, exec_seqNetadv_done s, exec_seqNetadv_waits s⟩

/-! ## `SEQ.CH` in `SERIAL` mode (rule R230) -/

theorem exec_seqCh_serial (s : State) (hm : s.cfg.seqMode = .serial) :
    exec .seqCh s = .next (seqChSerial s) := by
  rw [exec, execSeqCh, hm]

/-- A settled channel whose poll is not yet requested is requested. -/
theorem seqChSerial_request (s : State) (h : settled s s.qc = true) (hqs : s.qs = false) :
    seqChSerial s = { s.updChan s.qc (fun x => { x with ps := true }) with qs := true } :=
  (if_pos h).trans (if_pos hqs)

/-- A settled channel whose poll was requested has ended it. -/
theorem seqChSerial_ended (s : State) (h : settled s s.qc = true) (hqs : s.qs = true) :
    seqChSerial s = nextChannel s :=
  (if_pos h).trans (if_neg (by simp [hqs]))

/-- There is no step while the channel is busy or requested. -/
theorem seqChSerial_waits (s : State) (h : ¬ settled s s.qc = true) : seqChSerial s = s :=
  if_neg h

/-- After a channel that is not the last comes the next one. -/
theorem nextChannel_of_lt (s : State) (h : s.qc + 1 < s.cfg.nch) :
    nextChannel s = { s with qs := false, qc := s.qc + 1 } :=
  if_pos (by omega)

/-- After the last channel comes the host's slot. -/
theorem nextChannel_of_le (s : State) (h : s.cfg.nch ≤ s.qc + 1) :
    nextChannel s = { s with qs := false, q := qHost } :=
  if_neg (by omega)

/-- Settles O46: the slot by whether its channel is settled, then by `qs`, then by the channel's place. -/
theorem sequencerPollsOneChannelAtATime : Obligations.SequencerPollsOneChannelAtATime := by
  intro s hm
  rw [exec_seqCh_serial s hm]
  have hsettled (hphase : (s.chan s.qc).phase = pIdle) (hps : (s.chan s.qc).ps = false) :
      settled s s.qc = true := (settled_iff s s.qc).2 ⟨hphase, hps⟩
  refine ⟨fun hphase hps hqs => ?_, fun hnext hphase hps hqs => ?_, fun hlast hphase hps hqs => ?_,
    fun hwait => ?_⟩
  · rw [seqChSerial_request s (hsettled hphase hps) hqs]
  · rw [seqChSerial_ended s (hsettled hphase hps) hqs, nextChannel_of_lt s hnext]
  · rw [seqChSerial_ended s (hsettled hphase hps) hqs, nextChannel_of_le s hlast]
  · have hunsettled : ¬ settled s s.qc = true := by
      rwa [settled_iff, not_and_or, Bool.not_eq_false]
    rw [seqChSerial_waits s hunsettled]

/-! ## `SEQ.CH` in `CONCURRENT` mode (rule R232) -/

theorem exec_seqCh_concurrent (s : State) (hm : s.cfg.seqMode = .concurrent) :
    exec .seqCh s = .next (seqChConcurrent s) := by
  rw [exec, execSeqCh, hm]

/-- Every channel is settled: idle, and its request flag clear. -/
theorem allSettled_iff (s : State) :
    allSettled s = true ↔ ∀ x ∈ s.chans, x.phase = pIdle ∧ x.ps = false := by
  simp [allSettled]

/-- Settled channels whose polls are not yet requested are requested, all at once. -/
theorem seqChConcurrent_request (s : State) (h : allSettled s = true) (hqs : s.qs = false) :
    seqChConcurrent s = { s.requestAll with qs := true } :=
  (if_pos h).trans (if_pos hqs)

/-- Settled channels whose polls were requested have ended them, and the host's slot comes. -/
theorem seqChConcurrent_ended (s : State) (h : allSettled s = true) (hqs : s.qs = true) :
    seqChConcurrent s = { s with qs := false, q := qHost } :=
  (if_pos h).trans (if_neg (by simp [hqs]))

/-- There is no step while a channel is busy or requested. -/
theorem seqChConcurrent_waits (s : State) (h : ¬ allSettled s = true) : seqChConcurrent s = s :=
  if_neg h

/-! ## The host's slot (rules R231 and R232) -/

/-- The slot only passes where no command is presented, and in `CONCURRENT` mode always. -/
theorem exec_seqHost_passes (s : State) (h : s.hValid = false ∨ s.cfg.seqMode = .concurrent) :
    exec .seqHost s = .next { s with q := qSnap } := by
  refine if_neg fun ⟨hvalid, hserial⟩ => ?_
  obtain hnone | hconcurrent := h
  · simp [hvalid] at hnone
  · simp [hserial] at hconcurrent

/-- In `SERIAL` mode a presented command is executed as its row of the command map, and the slot passes. -/
theorem exec_seqHost_serves (s t : State) (hm : s.cfg.seqMode = .serial) (hvalid : s.hValid = true)
    (ht : exec (hostInstr s.hCmd s.hAddr s.hCount) s = .next t) :
    exec .seqHost s = .next { t with hDone := true, q := qSnap } := by
  rw [exec, execSeqHost, if_pos ⟨hvalid, hm⟩, hostExec_eq_exec, ht]

/-- Every row of the command map answers its command (rules R190 and R191). -/
theorem exec_hostInstr_answers (cmd : BitVec 3) (addr count : Nat) (s : State) :
    ∃ t, exec (hostInstr cmd addr count) s = .next t ∧ t.hDone = true := by
  simp only [hostInstr]
  split
  case h_6 => exact ⟨_, rfl, rfl⟩
  case h_8 => exact ⟨_, rfl, rfl⟩
  all_goals exact ⟨_, rfl, hostAdmit_hDone addr count _ s⟩

/-- Settles O47: the channels' slot by whether every channel is settled, then by `qs`; the host's slot
passes. -/
theorem sequencerPollsAllChannelsInParallel : Obligations.SequencerPollsAllChannelsInParallel := by
  intro s hm
  rw [exec_seqCh_concurrent s hm, ← allSettled_iff]
  refine ⟨fun hall hqs => ?_, fun hall hqs => ?_, fun hwait => ?_,
    exec_seqHost_passes s (.inr hm)⟩
  · rw [seqChConcurrent_request s hall hqs, State.requestAll]
  · rw [seqChConcurrent_ended s hall hqs]
  · obtain ⟨x, hx, hunsettled⟩ := hwait
    have hsome : ¬ allSettled s = true := fun hall => by
      obtain ⟨hphase, hps⟩ := (allSettled_iff s).1 hall x hx
      simp [hphase, hps] at hunsettled
    rw [seqChConcurrent_waits s hsome]

/-- Settles O48: the word on the port decodes to the row of its command, the slot executes that row, and
the row's answer has set `h_done` already. -/
theorem hostSlotServesTheCommand : Obligations.HostSlotServesTheCommand := by
  intro s hm
  refine ⟨fun hnone => exec_seqHost_passes s (.inl hnone), fun hvalid haddr hcount => ?_⟩
  obtain ⟨t, ht, hdone⟩ := exec_hostInstr_answers s.hCmd s.hAddr s.hCount s
  have hserved := exec_seqHost_serves s t hm hvalid ht
  rw [← hdone] at hserved
  exact ⟨_, t, decodeH_hostWord s.cfg s.hCmd _ _ haddr hcount, ht, hdone, hserved⟩

end Sys2Proof.Machine

/-! SUPPORT. The failure of a host command that is out of range (rule R246), and what an operation of a
channel depends on (rule R267), by running it in two states that agree on that; and from that the two
statements. -/

namespace Sys2Proof.Machine

/-! ## A command out of range (rules R191 and R246) -/

/-- The failure of a table access changes only the response and the model's counter of free values. -/
theorem tableAccess_frame (s : State) :
    (takeFailure .tableAccess s).answered = { s with
      hStatus := hsTableAccessFailure, hRdata := (takeFailure .tableAccess s).answered.hRdata,
      hDone := true, hValid := (takeFailure .tableAccess s).answered.hValid,
      free := (takeFailure .tableAccess s).answered.free } := rfl

/-- The six legal commands are the admission of some effect (rules R191 and R194 to R199). -/
theorem exec_hostLegal_of_mem {addr count : Nat} {i : Instr}
    (hi : i ∈ [.hRdc addr count, .hRdd addr count, .hRdh addr count, .hRdi addr count,
      .hWrc addr count, .hWrh addr count]) :
    ∃ effect, ∀ s, exec i s = .next (hostAdmit addr count effect s) := by
  simp only [List.mem_cons, List.not_mem_nil, or_false] at hi
  obtain rfl | rfl | rfl | rfl | rfl | rfl := hi
  · exact ⟨hostRead .coil addr count, fun _ => rfl⟩
  · exact ⟨hostRead .disc addr count, fun _ => rfl⟩
  · exact ⟨hostRead .hold addr count, fun _ => rfl⟩
  · exact ⟨hostRead .ireg addr count, fun _ => rfl⟩
  · exact ⟨hostWrite .coil addr count, fun _ => rfl⟩
  · exact ⟨hostWrite .hold addr count, fun _ => rfl⟩

/-- Settles O38: out of range the admission is the failure, whatever the command's effect is. -/
theorem outOfRangeCommandFailsWhole : Obligations.OutOfRangeCommandFailsWhole := by
  intro addr count s hout i hi
  obtain ⟨effect, hexec⟩ := exec_hostLegal_of_mem hi
  have hfails := hexec s
  rw [hostAdmit_fails addr count effect s hout] at hfails
  exact ⟨_, hfails, tableAccess_frame s⟩

/-! ## Two runs of one operation -/

/-- Both outcomes are next states, and `R` relates these. -/
def BothNext (R : State → State → Prop) (o1 o2 : Host.Outcome State Fault Refusal) : Prop :=
  ∃ t1 t2, o1 = .next t1 ∧ o2 = .next t2 ∧ R t1 t2

theorem BothNext.next {R : State → State → Prop} {t1 t2 : State} (h : R t1 t2) :
    BothNext R (.next t1) (.next t2) :=
  ⟨t1, t2, rfl, rfl, h⟩

/-- Two runs whose tests agree take the same branch. -/
theorem BothNext.ite {R : State → State → Prop} {p q : Prop} [Decidable p] [Decidable q]
    {a1 a2 b1 b2 : Host.Outcome State Fault Refusal} (hpq : p ↔ q) (ha : BothNext R a1 a2)
    (hb : BothNext R b1 b2) : BothNext R (if p then a1 else b1) (if q then a2 else b2) := by
  by_cases hp : p
  · rwa [if_pos hp, if_pos (hpq.1 hp)]
  · rwa [if_neg hp, if_neg (mt hpq.2 hp)]

/-! ## What an operation of a channel depends on (rules R262 and R267) -/

/-- Two states agree on the registers of channel `c` and on its origin coil, as the configuration `k`
places it. -/
structure OwnStateAgrees (c : Nat) (k : Config) (s1 s2 : State) : Prop where
  chan : s1.chan c = s2.chan c
  coil : s1.table.coils[k.coil c]? = s2.table.coils[k.coil c]?

/-- Two states that hold channel `c` agree on all that its operations look at: its registers and its
origin coil, its pins, the tick and the configuration. -/
structure ChannelInputsAgree (c : Nat) (s1 s2 : State) : Prop extends
    OwnStateAgrees c s1.cfg s1 s2 where
  exists_left : c < s1.chans.length
  exists_right : c < s2.chans.length
  cfg : s1.cfg = s2.cfg
  tick : s1.tick = s2.tick
  clk : pinReadClk s1 c = pinReadClk s2 c
  dat : pinReadDat s1 c = pinReadDat s2 c

section
variable {c : Nat} {s1 s2 : State} (h : ChannelInputsAgree c s1 s2)
include h

/-- Two updates of the registers that make the same of them keep the agreement. -/
theorem ChannelInputsAgree.updChan {f1 f2 : Channel → Channel}
    (hf : f1 (s1.chan c) = f2 (s1.chan c)) :
    OwnStateAgrees c s1.cfg (s1.updChan c f1) (s2.updChan c f2) where
  chan := by
    rw [chan_updChan_self s1 c f1 h.exists_left, chan_updChan_self s2 c f2 h.exists_right, hf, h.chan]
  coil := h.coil

/-- One and the same update of the registers keeps the agreement. -/
theorem ChannelInputsAgree.updChan_same (f : Channel → Channel) :
    OwnStateAgrees c s1.cfg (s1.updChan c f) (s2.updChan c f) :=
  h.updChan rfl

theorem ChannelInputsAgree.originCoilRead_eq : originCoilRead s1 c = originCoilRead s2 c := by
  simp only [originCoilRead, Table.read, h.coil, ← h.cfg]

/-- `CH.CLRCOIL` clears the same coil in both states, if it is there, and ends both polls. -/
theorem ChannelInputsAgree.clearCoil_agrees :
    OwnStateAgrees c s1.cfg (clearCoil c s1) (clearCoil c s2) where
  chan := (h.updChan_same fun x => { x with phase := pIdle }).chan
  coil := by
    rw [clearCoil_coils, clearCoil_coils, ← h.cfg, List.getElem?_set_self', List.getElem?_set_self',
      h.coil]

/-- `CH.WRITE` makes the same of the registers in both states, and leaves the coils. -/
theorem ChannelInputsAgree.writeValue_agrees :
    OwnStateAgrees c s1.cfg (writeValue c s1) (writeValue c s2) where
  chan := (h.updChan_same fun x => { x with res := resOk, phase := pIdle }).chan
  coil := h.coil

/-- `CH.WRITE` stores the same pair in both states. -/
theorem ChannelInputsAgree.writeValue_pair (hleft : s1.cfg.base c + 1 < s1.table.inputs.length)
    (hright : s1.cfg.base c + 1 < s2.table.inputs.length) :
    (writeValue c s1).table.inputs[s1.cfg.base c]? =
        (writeValue c s2).table.inputs[s1.cfg.base c]? ∧
      (writeValue c s1).table.inputs[s1.cfg.base c + 1]? =
        (writeValue c s2).table.inputs[s1.cfg.base c + 1]? := by
  rw [h.cfg] at hright
  simp [writeValue_inputs c s1 hleft, writeValue_inputs c s2 hright, ← h.cfg, ← h.chan]

/-- Where its coil and its pair are in the table, an operation of channel `c` completes in both states
and keeps the agreement: every test and every effect is of what they agree on. -/
theorem exec_ownStateAgrees {i : Instr} (hi : channelOf i = some c)
    (hcoil : s1.cfg.coil c < s1.cfg.n) (hpair : s1.cfg.base c + 1 < s1.cfg.n) :
    BothNext (OwnStateAgrees c s1.cfg) (exec i s1) (exec i s2) := by
  have hstay : BothNext (OwnStateAgrees c s1.cfg) (.next s1) (.next s2) := .next h.toOwnStateAgrees
  have hupd {f1 f2 : Channel → Channel} (hf : f1 (s1.chan c) = f2 (s1.chan c)) :
      BothNext (OwnStateAgrees c s1.cfg) (.next (s1.updChan c f1)) (.next (s2.updChan c f2)) :=
    .next (h.updChan hf)
  have hstart : BothNext (OwnStateAgrees c s1.cfg) (.next (originStart c s1.tick s1))
      (.next (originStart c s2.tick s2)) := hupd (by rw [h.tick])
  have hexpire : BothNext (OwnStateAgrees c s1.cfg) (.next (originExpire c s1))
      (.next (originExpire c s2)) := hupd rfl
  have hwait : BothNext (OwnStateAgrees c s1.cfg) (.next (originWait c s1))
      (.next (originWait c s2)) := .next (h.updChan_same fun x => { x with phase := pIdle })
  have hpass : BothNext (OwnStateAgrees c s1.cfg) (.next (lowPass c s1.tick s1))
      (.next (lowPass c s2.tick s2)) := hupd (by rw [h.tick])
  have hsample : BothNext (OwnStateAgrees c s1.cfg)
      (.next (highSample c (pinReadDat s1 c) s1.tick s1))
      (.next (highSample c (pinReadDat s2 c) s2.tick s2)) := hupd (by rw [h.cfg, h.dat, h.tick])
  have htimeout : BothNext (OwnStateAgrees c s1.cfg) (.next (takeFailure (.timeout c) s1))
      (.next (takeFailure (.timeout c) s2)) := by
    rw [takeFailure_timeout, takeFailure_timeout]
    exact hupd rfl
  have hinvalid : BothNext (OwnStateAgrees c s1.cfg) (.next (takeFailure (.invalidStart c) s1))
      (.next (takeFailure (.invalidStart c) s2)) := by
    rw [takeFailure_invalidStart, takeFailure_invalidStart]
    exact hupd rfl
  have hdecode : BothNext (OwnStateAgrees c s1.cfg) (.next (decodeFrame c s1))
      (.next (decodeFrame c s2)) := hupd (by rw [h.cfg])
  have hexpired : originExpired s1.cfg (tickRead s1) (s1.chan c).oss =
      originExpired s2.cfg (tickRead s2) (s2.chan c).oss := by
    rw [tickRead, tickRead, h.cfg, h.tick, h.chan]
  have htimed : timedOut s1.cfg (tickRead s1) (s1.chan c).t0 =
      timedOut s2.cfg (tickRead s2) (s2.chan c).t0 := by
    rw [tickRead, tickRead, h.cfg, h.tick, h.chan]
  cases i <;> cases hi
  case chPoll => exact .ite (by rw [h.chan]) (hupd rfl) hstay
  case chRdcoil =>
    rw [exec_chRdcoil c s1 hcoil, exec_chRdcoil c s2 (h.cfg ▸ hcoil)]
    exact hupd (by rw [h.originCoilRead_eq])
  case chOrigin => exact .ite (by rw [h.chan]) hstart (.ite (by rw [hexpired]) hexpire hwait)
  case orgStart => exact .ite (by rw [h.chan]) hstart hstay
  case orgExpire => exact .ite (by rw [hexpired, h.chan]) hexpire hstay
  case orgWait => exact .ite (by rw [hexpired, h.chan]) hwait hstay
  case chClrcoil =>
    rw [exec_chClrcoil c s1 hcoil, exec_chClrcoil c s2 (h.cfg ▸ hcoil)]
    exact .next h.clearCoil_agrees
  case chMstart =>
    rw [exec_chMstart, exec_chMstart]
    exact hupd (by rw [h.tick])
  case chWlow => exact .ite (by rw [h.clk]) hpass (.ite (by rw [htimed]) htimeout hstay)
  case wlowPass => exact .ite (by rw [h.clk]) hpass hstay
  case wlowTimeout => exact .ite (by rw [h.clk, htimed]) htimeout hstay
  case wlowStay => exact hstay
  case chWhigh => exact .ite (by rw [h.clk]) hsample (.ite (by rw [htimed]) htimeout hstay)
  case whighSample => exact .ite (by rw [h.clk]) hsample hstay
  case whighTimeout => exact .ite (by rw [h.clk, htimed]) htimeout hstay
  case whighStay => exact hstay
  case chDecode => exact .ite (by rw [h.chan]) hdecode hinvalid
  case decInvalid => exact .ite (by rw [h.chan]) hinvalid hstay
  case decOk => exact .ite (by rw [h.chan]) hdecode hstay
  case chWrite =>
    rw [exec_chWrite c s1 hpair, exec_chWrite c s2 (h.cfg ▸ hpair)]
    exact .next h.writeValue_agrees

end

/-- Settles O51: a valid configuration keeps the channel's coil and pair in the table, so that its
operations complete, and states of its counts hold the channel and the whole table. -/
theorem channelsAreIsolated : Obligations.ChannelsAreIsolated := by
  intro i c s1 s2 hi hvalid hc hshaped1 hshaped2 hcfg htick hchan hclk hdat hcoil
  obtain ⟨hrange, -⟩ := (valid_iff s1.cfg).1 hvalid
  obtain ⟨hcoilIn, hpairIn⟩ := (chanInRange_iff s1.cfg c).1 (hrange c hc)
  obtain ⟨htable1, hlen1, -⟩ := hshaped1
  obtain ⟨htable2, hlen2, -⟩ := hshaped2
  rw [← hcfg] at htable2 hlen2
  have h : ChannelInputsAgree c s1 s2 :=
    { chan := hchan, coil := hcoil, exists_left := hlen1 ▸ hc, exists_right := hlen2 ▸ hc,
      cfg := hcfg, tick := htick, clk := hclk, dat := hdat }
  obtain ⟨t1, t2, h1, h2, hsame⟩ := exec_ownStateAgrees h hi hcoilIn hpairIn
  refine ⟨t1, t2, h1, h2, hsame.chan, hsame.coil, fun hwrite => ?_⟩
  subst hwrite
  rw [exec_chWrite c s1 hpairIn] at h1
  rw [exec_chWrite c s2 (hcfg ▸ hpairIn)] at h2
  cases h1
  cases h2
  exact h.writeValue_pair (hpairIn.trans_eq (htable1.size .ireg).symm)
    (hpairIn.trans_eq (htable2.size .ireg).symm)

end Sys2Proof.Machine

/-! SUPPORT. The step at which the reset input is high, and what that leaves of the state before it (rule
R290); and from that the statement about the reset input. -/

namespace Sys2Proof.Machine

/-- Whatever the block was doing, reset leaves its elements as the reset state of its configuration has
them (rules R39 and R290). -/
theorem blockEq_applyReset (s : State) : BlockEq (State.resetIn s.cfg) s.applyReset :=
  ⟨rfl, rfl, rfl, rfl, rfl, rfl, rfl, rfl, rfl, rfl, rfl, rfl, rfl⟩

/-- In a state that the step takes, the script's reset entry is used up and the reset applied. -/
theorem step_rst (s : State) (rest : List Item) (ha : s.accepted)
    (hs : s.script = .ev .rst :: rest) :
    step s = .next { s with script := rest }.applyReset := by
  rw [step_accepted s ha, select_cons s _ rest hs]
  rfl

/-- Settles O11: the block's elements are those of the reset state, whose values
`resetLeavesTheSpecValues` gives; the pins, `net_adv_done` and the script are no elements of the block. -/
theorem resetInputRestoresEveryElement : Obligations.ResetInputRestoresEveryElement := by
  intro s rest ha hs
  have hblock : BlockEq (State.resetIn s.cfg) { s with script := rest }.applyReset :=
    blockEq_applyReset { s with script := rest }
  obtain ⟨-, hvalues⟩ := resetLeavesTheSpecValues
  obtain ⟨hcfg, htick, -, -, hadapter, htmr, hadp, hq, hqc, hqs, hnow, hstatus, -, -⟩ :=
    hvalues s.cfg
  exact ⟨_, step_rst s rest ha hs, hblock.tick.trans htick, hblock.table, hblock.chans,
    hblock.adapterPending.trans hadapter, hblock.tmrIrqPend.trans htmr,
    hblock.adpIrqPend.trans hadp, hblock.q.trans hq, hblock.qc.trans hqc, hblock.qs.trans hqs,
    hblock.netNow.trans hnow, hblock.hStatus.trans hstatus, hblock.hRdata,
    hblock.cfg.trans hcfg, rfl, rfl, rfl, rfl⟩

end Sys2Proof.Machine
